-- ==== Sys2Proof/Word.lean ====
section
/-! DEFINITION. The word types of the block (00_scope.md R11). -/

namespace Sys2Proof

/-- A byte of memory, an opcode byte or an 8-bit operand. -/
abbrev Byte := BitVec 8

/-- A 16-bit field: a program counter, a pitch, an identifier, an output word. -/
abbrev Half := BitVec 16

/-- A 32-bit host register, directory base or cursor index. -/
abbrev Word := BitVec 32

end Sys2Proof
end

