-- ==== Sys2Proof/Syntax.lean ====
section
/-! DEFINITION. The instructions: the decoded variants of 30_encoding.md R96 and the host commands of
46_host_commands.md R210. -/

namespace Sys2Proof

/-- One constructor per mnemonic of `spec/opcode_table.json`: the thirteen bytecode instructions, the
unknown opcodes (its six UNKNOWN rows are the one variant `Unknown(op)` of R96, log 12) and the six host
commands. -/
inductive Instr where
  | endSeq
  | note (w : Half)
  | instr (a : Byte)
  | vol (a : Byte)
  | voladd (a : Byte)
  | pitch (w : Half)
  | vib (a b : Byte)
  | viboff
  | trem (a b : Byte)
  | tremoff
  | wait (a : Byte)
  | jmp (w : Half)
  | loop (a : Byte) (w : Half)
  | unknown (op : Byte)
  | load
  | start
  | tick
  | render
  | stop
  | runtick
deriving DecidableEq, Repr

/-- The closed variant type of R96: what the sequencer's decoder can return. -/
inductive Bytecode where
  | endSeq
  | note (w : Half)
  | instr (a : Byte)
  | vol (a : Byte)
  | volAdd (a : Byte)
  | pitch (w : Half)
  | vib (a b : Byte)
  | vibOff
  | trem (a b : Byte)
  | tremOff
  | wait (a : Byte)
  | jmp (w : Half)
  | loop (a : Byte) (w : Half)
  | unknown (op : Byte)
deriving DecidableEq, Repr

/-- The six commands of R210. -/
inductive Command where
  | load
  | start
  | tick
  | render
  | stop
  | runtick
deriving DecidableEq, Repr

/-- A decoded bytecode variant as an instruction. -/
def Bytecode.toInstr : Bytecode → Instr
  | .endSeq => .endSeq
  | .note w => .note w
  | .instr a => .instr a
  | .vol a => .vol a
  | .volAdd a => .voladd a
  | .pitch w => .pitch w
  | .vib a b => .vib a b
  | .vibOff => .viboff
  | .trem a b => .trem a b
  | .tremOff => .tremoff
  | .wait a => .wait a
  | .jmp w => .jmp w
  | .loop a w => .loop a w
  | .unknown op => .unknown op

/-- A host command as an instruction. -/
def Command.toInstr : Command → Instr
  | .load => .load
  | .start => .start
  | .tick => .tick
  | .render => .render
  | .stop => .stop
  | .runtick => .runtick

/-- The two places instructions come from: the byte stream of a sequence (R90) and the low byte of a
write to register `CMD` (R210). Their code spaces overlap. -/
inductive Port where
  | stream
  | cmd
deriving DecidableEq, Repr

/-- Which port an instruction comes in by. -/
def Instr.port : Instr → Port
  | .endSeq => .stream
  | .note _ => .stream
  | .instr _ => .stream
  | .vol _ => .stream
  | .voladd _ => .stream
  | .pitch _ => .stream
  | .vib _ _ => .stream
  | .viboff => .stream
  | .trem _ _ => .stream
  | .tremoff => .stream
  | .wait _ => .stream
  | .jmp _ => .stream
  | .loop _ _ => .stream
  | .unknown _ => .stream
  | .load => .cmd
  | .start => .cmd
  | .tick => .cmd
  | .render => .cmd
  | .stop => .cmd
  | .runtick => .cmd

end Sys2Proof
end

