-- ==== Sys2Proof/WellFormed.lean ====
section
/-! DEFINITION. Which terms of `Instr` stand for an instruction the encoding has. -/

namespace Sys2Proof

/-- No operand value is illegal (30_encoding.md R99); the one check is that an unknown opcode is a byte
outside the thirteen assigned ones (R98). -/
def Instr.wellFormed : Instr → Bool
  | .endSeq => true
  | .note _ => true
  | .instr _ => true
  | .vol _ => true
  | .voladd _ => true
  | .pitch _ => true
  | .vib _ _ => true
  | .viboff => true
  | .trem _ _ => true
  | .tremoff => true
  | .wait _ => true
  | .jmp _ => true
  | .loop _ _ => true
  | .unknown op => decide (0x0D ≤ op.toNat)
  | .load => true
  | .start => true
  | .tick => true
  | .render => true
  | .stop => true
  | .runtick => true

end Sys2Proof
end

