-- ==== Sys2Proof/Decode.lean ====
section
/-! DEFINITION. The decoder of 30_encoding.md (and of the command codes of 46_host_commands.md R210),
then the encoder, both from the same tables. -/

namespace Sys2Proof

/-- Why bytes do not decode. -/
inductive DecodeError where
  /-- R95, R100: the instruction's bytes run past the bytes there are. -/
  | pastEnd
  /-- R211: a byte written to `CMD` that is no command code. -/
  | badCommand (code : Byte)
deriving DecidableEq, Repr

/-- `BE16` of two bytes (R12, R94): the first byte is the more significant. -/
def be16 (hi lo : Byte) : Half := hi ++ lo

/-- The more significant byte of a 16-bit operand. -/
def hiByte (w : Half) : Byte := w.extractLsb' 8 8

/-- The less significant byte of a 16-bit operand. -/
def loByte (w : Half) : Byte := w.extractLsb' 0 8

/-- `ILEN(op)` (R92): the length the opcode byte alone gives. -/
def ilen (op : Byte) : Nat :=
  match op.toNat with
  | 0x01 => 3
  | 0x02 => 2
  | 0x03 => 2
  | 0x04 => 2
  | 0x05 => 3
  | 0x06 => 3
  | 0x08 => 3
  | 0x0A => 2
  | 0x0B => 3
  | 0x0C => 4
  | _ => 1

/-- The variant that opcode byte `op` selects (R97) with the operand fields of R93 taken from the bytes
after it. -/
def variant (op b1 b2 b3 : Byte) : Bytecode :=
  match op.toNat with
  | 0x00 => .endSeq
  | 0x01 => .note (be16 b1 b2)
  | 0x02 => .instr b1
  | 0x03 => .vol b1
  | 0x04 => .volAdd b1
  | 0x05 => .pitch (be16 b1 b2)
  | 0x06 => .vib b1 b2
  | 0x07 => .vibOff
  | 0x08 => .trem b1 b2
  | 0x09 => .tremOff
  | 0x0A => .wait b1
  | 0x0B => .jmp (be16 b1 b2)
  | 0x0C => .loop b1 (be16 b2 b3)
  | _ => .unknown op

/-- `Decode` on the bytes that stand at the program counter (R95): the variant and the length consumed,
or `PastEnd` where the bytes end inside the instruction (R100). -/
def decodeStream (bs : List Byte) : Except DecodeError (Bytecode × Nat) :=
  match bs with
  | [] => .error .pastEnd
  | op :: rest =>
    if bs.length < ilen op then .error .pastEnd
    else .ok (variant op (rest.getD 0 0) (rest.getD 1 0) (rest.getD 2 0), ilen op)

/-- The command that code `v` stands for (R210); every other code is bad (R211). -/
def decodeCommand (v : Byte) : Except DecodeError Command :=
  match v.toNat with
  | 0x01 => .ok .load
  | 0x02 => .ok .start
  | 0x03 => .ok .tick
  | 0x04 => .ok .render
  | 0x05 => .ok .stop
  | 0x06 => .ok .runtick
  | _ => .error (.badCommand v)

/-- The instruction at the head of the bytes that come in by a port, and the bytes it takes. -/
def decode (p : Port) (bs : List Byte) : Except DecodeError (Instr × Nat) :=
  match p with
  | .stream => (decodeStream bs).map fun d => (d.1.toInstr, d.2)
  | .cmd =>
    match bs with
    | [] => .error .pastEnd
    | v :: _ => (decodeCommand v).map fun k => (k.toInstr, 1)

/-- The bytes of an instruction (R91, R97); a command is the one byte written to `CMD` (R210). -/
def encode : Instr → List Byte
  | .endSeq => [0x00]
  | .note w => [0x01, hiByte w, loByte w]
  | .instr a => [0x02, a]
  | .vol a => [0x03, a]
  | .voladd a => [0x04, a]
  | .pitch w => [0x05, hiByte w, loByte w]
  | .vib a b => [0x06, a, b]
  | .viboff => [0x07]
  | .trem a b => [0x08, a, b]
  | .tremoff => [0x09]
  | .wait a => [0x0A, a]
  | .jmp w => [0x0B, hiByte w, loByte w]
  | .loop a w => [0x0C, a, hiByte w, loByte w]
  | .unknown op => [op]
  | .load => [0x01]
  | .start => [0x02]
  | .tick => [0x03]
  | .render => [0x04]
  | .stop => [0x05]
  | .runtick => [0x06]

/-- The `k`-th byte of a word of `spec/opcode_table.json`: byte 0 is bits 7..0. -/
def tableByte (w k : Nat) : Byte := BitVec.ofNat 8 (w / 256 ^ k)

/-- The four bytes that the table's word gives, the first byte first; the bits the row does not have are 0. -/
def tableBytes (w : Nat) : List Byte :=
  [tableByte w 0, tableByte w 1, tableByte w 2, tableByte w 3]

/-- Which port a word of the table is for. The codes 0x01..0x06 name a command in one byte and begin an
instruction of at least two bytes in the stream, so a word of at most eight bits with such a code is a
command (log 11). -/
def tablePort (nbits w : Nat) : Port :=
  if nbits ≤ 8 ∧ 1 ≤ w ∧ w ≤ 6 then .cmd else .stream

/-- The instruction the decoder reads from a word of `spec/opcode_table.json`. -/
def decodeTableWord (nbits w : Nat) : Option Instr :=
  match decode (tablePort nbits w) (tableBytes w) with
  | .ok d => some d.1
  | .error _ => none

end Sys2Proof
end

