-- ==== Sys2Proof/Config.lean ====
section
/-! DEFINITION. The parameters of an instance (00_scope.md R8 to R10) and the free value. -/

namespace Sys2Proof

/-- The `OPEN` parameters of R10. The constraints of R10 are carried as proofs, so a configuration that
U4 of 93_implementation_defined.md refuses cannot be written down. -/
structure Config where
  /-- `MEM_SIZE`: bytes of the block's memory. -/
  memSize : Nat
  /-- `OUTPUT_RATE`: output frames per second. -/
  outputRate : Nat
  /-- `FPT_Q16`: output frames per tick, unsigned Q16.16. -/
  fptQ16 : Nat
  /-- `WAVE[0..63]`: the vibrato and tremolo waveform table. -/
  wave : Vector Int 64
  memSize_ok : 1 ≤ memSize ∧ memSize ≤ 4294967296 := by decide
  outputRate_ok : 1 ≤ outputRate ∧ outputRate < 4294967296 := by decide
  fptQ16_ok : 65536 ≤ fptQ16 ∧ fptQ16 < 4294967296 := by decide
  wave_ok : wave.toList.all (fun w => decide (-32 ≤ w ∧ w ≤ 32)) = true := by decide
deriving DecidableEq, Repr

/-- The reference triangle of 43_effects.md R152. -/
def Config.referenceWave : Vector Int 64 :=
  #v[0, 2, 4, 6, 8, 10, 12, 14, 16, 18, 20, 22, 24, 26, 28, 30,
     32, 30, 28, 26, 24, 22, 20, 18, 16, 14, 12, 10, 8, 6, 4, 2,
     0, -2, -4, -6, -8, -10, -12, -14, -16, -18, -20, -22, -24, -26, -28, -30,
     -32, -30, -28, -26, -24, -22, -20, -18, -16, -14, -12, -10, -8, -6, -4, -2]

/-- The reference values of R10. DESIGN CHOICE (log 3): only `State.reset` and the tests use them. -/
def Config.reference : Config where
  memSize := 0x400
  outputRate := 44100
  fptQ16 := 0x03720000
  wave := Config.referenceWave

/-- `RUNAWAY_LIMIT` of R9: taken transfers allowed to one channel in one tick. -/
def Config.runawayLimit : Nat := 256

/-- `VOL_MAX` of R9. -/
def Config.volMax : Nat := 64

/-- `PITCH_MIN` of R9. -/
def Config.pitchMin : Nat := 1

/-- `PITCH_MAX` of R9. -/
def Config.pitchMax : Nat := 65535

/-- `WAVE_PEAK` of R9: the table value that stands for full depth. -/
def Config.wavePeak : Nat := 32

/-- `SMP_REC`, the size of a sample record (R9, R68). -/
def Config.smpRec : Nat := 20

/-- `INS_REC`, the size of an instrument record (R9, R70). -/
def Config.insRec : Nat := 16

/-- `SEQ_REC`, the size of a sequence record (R9, R72). -/
def Config.seqRec : Nat := 8

/-- `SND_REC`, the size of a sound record (R9, R74). -/
def Config.sndRec : Nat := 8

/-- `SEQ_NONE` of R9: the sequence identifier that means "channel unassigned". -/
def Config.seqNone : Nat := 0xFFFF

/-- FREE VALUE (U2, log 5): the byte at an address after the `n`-th platform reset; nothing constrains it. -/
opaque Config.unspecifiedByte : Nat → Nat → Byte

end Sys2Proof
end

