-- ==== Sys2Proof/Machine/State.lean ====
section
/-! DEFINITION. The state of the block as plain data (10_state.md R20 to R39), the reasons a step can
stop, and the state after reset (R46). -/

namespace Sys2Proof.Machine

/-- The four states of the channel state machine (R31). -/
inductive ChState where
  | idle
  | running
  | waiting
  | stopped
deriving DecidableEq, Repr

/-- The codes of the channel error latch `err` (R38, R242): 0, 2, 3, 4. -/
inductive ChErr where
  | none
  | notFound
  | unknownOpcode
  | runawayLoop
deriving DecidableEq, Repr

/-- Why a channel is `STOPPED` (R38, R246): codes 0 to 5. -/
inductive StopCause where
  | notStopped
  | endExecuted
  | pastEnd
  | sampleEnd
  | hostStop
  | errorEvent
deriving DecidableEq, Repr

/-- The outcome of the last command (R25): codes 0, 1, 2, 7. -/
inductive CmdResult where
  | ok
  | loadError
  | notFound
  | badCmd
deriving DecidableEq, Repr

/-- One channel register set (R30). -/
structure Channel where
  st : ChState
  seq : Half
  pc : Half
  wait : Byte
  lc : Byte
  ins : Byte
  insv : Bool
  pitch : Half
  vol : BitVec 7
  gate : Bool
  curi : Word
  curf : Half
  looped : Bool
  vdep : Byte
  vspd : Byte
  vph : Byte
  tdep : Byte
  tspd : Byte
  tph : Byte
  err : ChErr
  errpc : Half
  errb : Byte
  stopc : StopCause
deriving DecidableEq, Repr

/-- The reset and `ChanReset` value of every channel field (R30, R45): 0, but for `pitch = PITCH_MIN = 1`. -/
def Channel.reset : Channel where
  st := .idle
  seq := 0
  pc := 0
  wait := 0
  lc := 0
  ins := 0
  insv := false
  pitch := 1
  vol := 0
  gate := false
  curi := 0
  curf := 0
  looped := false
  vdep := 0
  vspd := 0
  vph := 0
  tdep := 0
  tspd := 0
  tph := 0
  err := .none
  errpc := 0
  errb := 0
  stopc := .notStopped

/-- The four channel register sets `ch[0]` to `ch[3]` (R30). -/
structure Channels where
  ch0 : Channel
  ch1 : Channel
  ch2 : Channel
  ch3 : Channel
deriving DecidableEq, Repr

/-- Every channel at its reset value (R45). -/
def Channels.reset : Channels where
  ch0 := Channel.reset
  ch1 := Channel.reset
  ch2 := Channel.reset
  ch3 := Channel.reset

/-- The eight directory registers latched by `LOAD` (R23). -/
structure Directory where
  smpBase : Word
  smpCnt : Half
  insBase : Word
  insCnt : Half
  seqBase : Word
  seqCnt : Half
  sndBase : Word
  sndCnt : Half
deriving DecidableEq, Repr

/-- All eight directory registers 0 (R23, R212, R232). -/
def Directory.zero : Directory where
  smpBase := 0
  smpCnt := 0
  insBase := 0
  insCnt := 0
  seqBase := 0
  seqCnt := 0
  sndBase := 0
  sndCnt := 0

/-- The slice in progress (log 2): whether there is one, the channel that executes it, and the hidden
counter `xfers` of the transfers it has taken, 0 .. RUNAWAY_LIMIT (R39). -/
structure Sequencer where
  active : Bool
  chan : Fin 4
  xfers : Fin 257
deriving DecidableEq, Repr

/-- No slice in progress. -/
def Sequencer.idle : Sequencer where
  active := false
  chan := 0
  xfers := 0

/-- What the outside world can do to the block between two commands: the register port (R230, R231), the
memory port (R232, R233), and the platform's reset (R270). -/
inductive HostOp where
  | regWrite (n : Byte) (v : Word)
  | regRead (n : Byte)
  | memWrite (a : Word) (v : Byte)
  | memReadHost (a : Word)
  | reset
deriving DecidableEq, Repr

/-- The contents of `M` (R21) as address and byte pairs, addresses strictly rising, no entry equal to what
an unlisted address reads as (`Memory.wf`). -/
abbrev Memory := List Host.Cell

/-- Everything the block holds (R20), the parameters of the instance, and the model's own fields. -/
structure State where
  /-- The instance's parameters (R10, R17): no step changes them (log 3). -/
  par : Config
  /-- The byte memory `M` (R21). -/
  mem : Memory
  /-- R22. -/
  loaded : Bool
  /-- R23. -/
  dir : Directory
  /-- `cfg.unkskip` (R24). -/
  unkskip : Bool
  /-- `cfg.mono` (R24). `cfg.enven` is hard-wired 0 and has no storage (log 16). -/
  mono : Bool
  /-- R25. -/
  result : CmdResult
  /-- R25. -/
  lderrRec : Half
  /-- R25. -/
  lderrRef : Half
  /-- R26. -/
  sndId : Half
  /-- R26. -/
  sndValid : Bool
  /-- R26: the fractional frame accumulator. -/
  facc : Half
  /-- `arg[0..7]` (R28). -/
  arg : Vector Word 8
  /-- The output stream, oldest word first (R27); a word is a signed 16-bit integer. -/
  out : List Half
  /-- `ch[0]` to `ch[3]` (R30). -/
  ch : Channels
  /-- The slice in progress (R39, log 2). -/
  seqr : Sequencer
  /-- MODEL'S OWN: the host's operations still to come, the next one first (R16, log 1). -/
  host : List HostOp
  /-- MODEL'S OWN: the value the last host read returned (R230, R233, log 9). -/
  rdata : Word
  /-- MODEL'S OWN: how many platform resets have happened (log 5). -/
  epoch : Nat
deriving DecidableEq, Repr

/-- The model faults. None is an architectural event of the block (R18). -/
inductive Fault where
  /-- A read of `n` bytes at address `a` that reaches beyond `MEM_SIZE` (R62, U1). Raised by the fetch,
  `INSTR`, `LOAD`, `START`, a frame and `MemReadHost`. Safe: the spec defines no result. -/
  | memRead (a n : Nat)
  /-- A host write at or beyond `MEM_SIZE` (R232, U1). Raised by `MemWrite`. Safe. -/
  | memWrite (a : Nat)
  /-- A slice longer than R119 allows. Raised by no state (log 10). Safe. -/
  | sliceBound
deriving DecidableEq, Repr

/-- The refusals. Every instruction has its meaning, so none is raised. -/
inductive Refusal where
  /-- An instruction with no meaning in the model, by its mnemonic. Raised only by an arm of `exec`; none
  does. Safe. -/
  | notModelled (mnemonic : String)
deriving DecidableEq, Repr

/-- The machine right after power-up reset (R46, R271). The parameters are the reference values (log 3)
and the memory lists nothing (log 4); the model's own fields start empty (logs 1, 2, 5, 9). -/
def State.reset : State where
  par := Config.reference
  mem := []
  loaded := false
  dir := Directory.zero
  unkskip := false
  mono := false
  result := .ok
  lderrRec := 0
  lderrRef := 0
  sndId := 0
  sndValid := false
  facc := 0
  arg := Vector.replicate 8 0
  out := []
  ch := Channels.reset
  seqr := Sequencer.idle
  host := []
  rdata := 0
  epoch := 0

end Sys2Proof.Machine
end

