-- ==== Sys2Proof/Machine/Flags.lean ====
section
/-! DEFINITION. The flags of the block: the one-bit channel flags of 10_state.md R33 and the status bits the
host reads (R41, R43). There are no arithmetic condition codes. -/

namespace Sys2Proof.Machine

/-- The code of `st` (R31). -/
def ChState.code : ChState → BitVec 2
  | .idle => 0
  | .running => 1
  | .waiting => 2
  | .stopped => 3

/-- The code of `err` (R38). -/
def ChErr.code : ChErr → BitVec 3
  | .none => 0
  | .notFound => 2
  | .unknownOpcode => 3
  | .runawayLoop => 4

/-- The code of `stopc` (R38). -/
def StopCause.code : StopCause → BitVec 3
  | .notStopped => 0
  | .endExecuted => 1
  | .pastEnd => 2
  | .sampleEnd => 3
  | .hostStop => 4
  | .errorEvent => 5

/-- The code of `result` (R25). -/
def CmdResult.code : CmdResult → BitVec 3
  | .ok => 0
  | .loadError => 1
  | .notFound => 2
  | .badCmd => 7

/-- A channel takes ticks and frames exactly when it is `RUNNING` or `WAITING` (R113, R181). -/
def Channel.live (x : Channel) : Bool :=
  match x.st with
  | .idle => false
  | .running => true
  | .waiting => true
  | .stopped => false

/-- The restart of the sample: cursor 0 and `looped` cleared (R33, R36; `NOTE` and `INSTR`). -/
def Channel.rewind (x : Channel) : Channel :=
  { x with curi := 0, curf := 0, looped := false }

/-- `gate` set by `NOTE` (R33). -/
def Channel.openGate (x : Channel) : Channel :=
  { x with gate := true }

/-- The channel's `ERRc` bit (R41). -/
def Channel.errFlag (x : Channel) : Bool :=
  decide (x.err ≠ .none)

end Sys2Proof.Machine
end

