-- ==== Sys2Proof/Machine/Operands.lean ====
section
/-! DEFINITION. How the rules use their operands and form their values: the exact functions of 00_scope.md
R12 and the clamps of 47_common_laws.md R235. Everything is computed over the integers and narrowed once. -/

namespace Sys2Proof.Machine

/-- `clamp(v, lo, hi)` (R12). -/
def clamp (v lo hi : Int) : Int :=
  if v < lo then lo else if hi < v then hi else v

/-- `tdiv(a, b)`: the quotient rounded toward zero (R12). -/
def tdiv (a b : Int) : Int :=
  if 0 ≤ a then a / b else -((-a) / b)

/-- `sext_16` of an 8-bit operand: its signed value, -128..127 (R12, R93). -/
def sext (a : Byte) : Int :=
  if a.toNat < 128 then (a.toNat : Int) else (a.toNat : Int) - 256

/-- A pitch kept in `PITCH_MIN..PITCH_MAX` (R35): `clamp(w, 1, 65535)` of R131 and R133. -/
def pitchOf (w : Half) : Half :=
  BitVec.ofInt 16 (clamp w.toNat Config.pitchMin Config.pitchMax)

/-- An absolute volume (R141, R132): `min(v, 64)`. -/
def volOf (v : Nat) : BitVec 7 :=
  BitVec.ofNat 7 (min v Config.volMax)

/-- A relative volume (R142): `clamp(vol + sext_16(a), 0, 64)`, formed exactly. -/
def volPlus (v : BitVec 7) (a : Byte) : BitVec 7 :=
  BitVec.ofInt 7 (clamp (v.toNat + sext a) 0 Config.volMax)

/-- The running count of a `LOOP a` (R168): the operand when no loop is in progress, else `lc`. -/
def loopCount (lc a : Byte) : Byte :=
  if lc = 0 then a else lc

end Sys2Proof.Machine
end

