-- ==== Sys2Proof/Machine/Ops.lean ====
section
/-! DEFINITION. The named operations over memory and registers: the memory of 20_memory.md, its records, the
channel register sets, and taking an error event (60_exceptions.md R243). -/

namespace Sys2Proof.Machine

/-! ## Outcomes -/

/-- The outcome type of every meaning. -/
abbrev Result := Host.Outcome State Fault Refusal

/-- Goes on from the next state; a fault or a refusal ends the whole (log 19). -/
def andThen (r : Result) (k : State → Result) : Result :=
  match r with
  | .next s => k s
  | .fault f => .fault f
  | .refused q => .refused q

/-- Goes on with a value read from memory; a faulting read ends the whole (U1). -/
def onRead {α : Type} (r : Except Fault α) (k : α → Result) : Result :=
  match r with
  | .ok v => k v
  | .error f => .fault f

/-! ## The byte memory -/

/-- What an unlisted address reads as. DESIGN CHOICE (log 4): the spec leaves it unspecified (U2). -/
def Memory.blank : Byte := 0

/-- One byte of `M` (R62 with n = 1), without the bound. -/
def Memory.read : Memory → Nat → Byte
  | [], _ => Memory.blank
  | (b, w) :: m, a => if a = b then w else Memory.read m a

/-- A byte written, keeping the canonical form. -/
def Memory.write : Memory → Nat → Byte → Memory
  | [], a, v => if v = Memory.blank then [] else [(a, v)]
  | (b, w) :: m, a, v =>
    if a < b then
      if v = Memory.blank then (b, w) :: m else (a, v) :: (b, w) :: m
    else if a = b then
      if v = Memory.blank then m else (a, v) :: m
    else (b, w) :: Memory.write m a v

/-- The canonical form: addresses strictly rising, no entry equal to what an unlisted address reads as. -/
def Memory.wf : Memory → Bool
  | [] => true
  | (b, w) :: m => decide (w ≠ Memory.blank) && (m.all fun e => decide (b < e.1)) && Memory.wf m

/-- The memory whose byte at each address below `n` is `f`'s, the rest unlisted. -/
def Memory.fill (n : Nat) (f : Nat → Byte) : Memory :=
  ((List.range n).map fun a => (a, f a)).filter fun e => decide (e.2 ≠ Memory.blank)

/-- The unsigned big-endian value of the `n` bytes at `a` (R61, R62; `BE16`, `BE32` of R12). -/
def Memory.value (m : Memory) (a : Nat) : Nat → Nat
  | 0 => 0
  | n + 1 => m.value a n * 256 + (m.read (a + n)).toNat

/-- `MemRead(a, n)` (R62): the address is a mathematical integer and never wraps; a read that reaches
beyond `MEM_SIZE` faults (U1). -/
def memRead (s : State) (a n : Nat) : Except Fault Nat :=
  if a + n ≤ s.par.memSize then .ok (s.mem.value a n) else .error (.memRead a n)

/-- A one-byte `MemRead` as a byte. -/
def memReadByte (s : State) (a : Nat) : Except Fault Byte :=
  (memRead s a 1).map fun v => BitVec.ofNat 8 v

/-- The `n` bytes from `a` on, fetched one at a time in ascending order (R61). -/
def memReadBytes (s : State) (a : Nat) : Nat → Except Fault (List Byte)
  | 0 => .ok []
  | n + 1 => do
    let b ← memReadByte s a
    let bs ← memReadBytes s (a + 1) n
    .ok (b :: bs)

/-! ## Records (R67: record `i` lies at `base + i * size`) -/

/-- A sample record `Smp(k)` (R68). -/
structure Sample where
  data : Nat
  length : Nat
  loopStart : Nat
  loopLength : Nat
  rate : Nat
deriving DecidableEq, Repr

/-- An instrument record `Ins(i)` (R71); the envelope bytes are never read (R7). -/
structure Instrument where
  sample : Nat
  basePitch : Nat
  defvol : Nat
  silence : Int
  flags : Byte
  vibDepth : Byte
  vibSpeed : Byte
  tremDepth : Byte
  tremSpeed : Byte
deriving DecidableEq, Repr

/-- A sequence record `Seq(q)` (R72). -/
structure SeqRecord where
  code : Nat
  len : Nat
deriving DecidableEq, Repr

/-- The address of sample record `k` (R68). -/
def smpAddr (s : State) (k : Nat) : Nat := s.dir.smpBase.toNat + Config.smpRec * k

/-- The address of instrument record `i` (R70). -/
def insAddr (s : State) (i : Nat) : Nat := s.dir.insBase.toNat + Config.insRec * i

/-- The address of sequence record `q` (R72). -/
def seqAddr (s : State) (q : Nat) : Nat := s.dir.seqBase.toNat + Config.seqRec * q

/-- The address of sound record `i` (R74). -/
def sndAddr (s : State) (i : Nat) : Nat := s.dir.sndBase.toNat + Config.sndRec * i

/-- `Smp(k)` (R68), read whole (log 7). -/
def readSample (s : State) (k : Nat) : Except Fault Sample := do
  let a := smpAddr s k
  let data ← memRead s a 4
  let length ← memRead s (a + 4) 4
  let loopStart ← memRead s (a + 8) 4
  let loopLength ← memRead s (a + 12) 4
  let rate ← memRead s (a + 16) 4
  .ok { data, length, loopStart, loopLength, rate }

/-- `Ins(i)` (R71), read whole but for the bytes R71 does not list (log 7). -/
def readInstrument (s : State) (i : Nat) : Except Fault Instrument := do
  let a := insAddr s i
  let sample ← memRead s a 2
  let basePitch ← memRead s (a + 2) 2
  let defvol ← memRead s (a + 4) 1
  let silence ← memReadByte s (a + 5)
  let flags ← memReadByte s (a + 6)
  let vibDepth ← memReadByte s (a + 8)
  let vibSpeed ← memReadByte s (a + 9)
  let tremDepth ← memReadByte s (a + 10)
  let tremSpeed ← memReadByte s (a + 11)
  .ok { sample, basePitch, defvol, silence := sext silence, flags, vibDepth, vibSpeed, tremDepth, tremSpeed }

/-- `Seq(q)` (R72). -/
def readSeq (s : State) (q : Nat) : Except Fault SeqRecord := do
  let a := seqAddr s q
  let code ← memRead s a 4
  let len ← memRead s (a + 4) 2
  .ok { code, len }

/-- `Snd(i).seq[c]` (R74). -/
def readSound (s : State) (i c : Nat) : Except Fault Nat :=
  memRead s (sndAddr s i + 2 * c) 2

/-- `Amp(k, j)` of a sample record (R69): the signed byte at `data + j`. -/
def readAmp (s : State) (S : Sample) (j : Nat) : Except Fault Int :=
  (memReadByte s (S.data + j)).map sext

/-! ## Channel register sets -/

/-- The register set of channel `c`. -/
def Channels.get (v : Channels) (c : Fin 4) : Channel :=
  match c with
  | 0 => v.ch0
  | 1 => v.ch1
  | 2 => v.ch2
  | 3 => v.ch3

/-- The register sets with channel `c`'s replaced. -/
def Channels.set (v : Channels) (c : Fin 4) (x : Channel) : Channels :=
  match c with
  | 0 => { v with ch0 := x }
  | 1 => { v with ch1 := x }
  | 2 => { v with ch2 := x }
  | 3 => { v with ch3 := x }

/-- A function applied to every register set. -/
def Channels.map (v : Channels) (f : Channel → Channel) : Channels :=
  { ch0 := f v.ch0, ch1 := f v.ch1, ch2 := f v.ch2, ch3 := f v.ch3 }

/-- `ch[c]`. -/
def State.chan (s : State) (c : Fin 4) : Channel := s.ch.get c

/-- `ch[c] <- x`. -/
def State.setChan (s : State) (c : Fin 4) (x : Channel) : State :=
  { s with ch := s.ch.set c x }

/-- The channel that executes the instruction: the `c` of every instruction rule (R130). -/
def State.cur (s : State) : Channel := s.chan s.seqr.chan

/-- Writes the executing channel. -/
def State.setCur (s : State) (x : Channel) : State := s.setChan s.seqr.chan x

/-- `ChanReset(c)` for every `c` (R45). -/
def State.resetChans (s : State) : State :=
  { s with ch := Channels.reset }

/-- The program counter advanced by the instruction's length (R32). -/
def Channel.advance (x : Channel) (n : Nat) : Channel :=
  { x with pc := x.pc + BitVec.ofNat 16 n }

/-- A stop that is no error (R246): `st`, `stopc` and nothing else. -/
def Channel.halt (x : Channel) (why : StopCause) : Channel :=
  { x with st := .stopped, stopc := why }

/-- Recording an error event (R243, R171): the code, the offset of the instruction and the byte. -/
def Channel.latch (x : Channel) (e : ChErr) (info : Byte) : Channel :=
  { x with err := e, errpc := x.pc, errb := info }

/-- TAKING AN ERROR EVENT, `raise E(c, info)` (R243): record it and halt the channel; `pc` stays at the
instruction. There is no handler and no return (R248): only `ChanReset` leaves `STOPPED`. -/
def Channel.raise (x : Channel) (e : ChErr) (info : Byte) : Channel :=
  (x.latch e info).halt .errorEvent

/-- The way out of a halted channel and of every other state (R45, R111 T9, R248): `ChanReset`, here of one
channel with sequence `q` assigned unless `q` is `SEQ_NONE` (R214). -/
def Channel.started (q : Nat) : Channel :=
  if q = Config.seqNone then Channel.reset
  else { Channel.reset with seq := BitVec.ofNat 16 q, st := .running }

end Sys2Proof.Machine
end

