-- ==== Sys2Proof/Machine/Voice.lean ====
section
/-! DEFINITION. The voice instructions NOTE, INSTR and PITCH (41_voice.md). -/

namespace Sys2Proof.Machine

/-- `NOTE w` (R131): the pitch, the gate, the sample from its start. -/
def execNote (w : Half) (s : State) : Result :=
  .next (s.setCur (({ s.cur with pitch := pitchOf w }.openGate.rewind).advance 3))

/-- The vibrato registers from a preset or an operand pair, phase 0 (R155, R132, R159). -/
def Channel.setVib (x : Channel) (dep spd : Byte) : Channel :=
  { x with vdep := dep, vspd := spd, vph := 0 }

/-- The tremolo registers from a preset or an operand pair, phase 0 (R157, R132, R159). -/
def Channel.setTrem (x : Channel) (dep spd : Byte) : Channel :=
  { x with tdep := dep, tspd := spd, tph := 0 }

/-- What selecting instrument `a` with record `I` does to the channel, `pc` apart (R132). -/
def Channel.select (x : Channel) (a : Byte) (I : Instrument) : Channel :=
  let x := { x.rewind with ins := a, insv := true, vol := volOf I.defvol }
  let x := if I.flags.getLsbD 0 then x.setVib I.vibDepth I.vibSpeed else x
  if I.flags.getLsbD 1 then x.setTrem I.tremDepth I.tremSpeed else x

/-- `INSTR a` (R132): rebind the instrument, or `NotFound`. -/
def execInstr (a : Byte) (s : State) : Result :=
  if s.dir.insCnt.toNat ≤ a.toNat then .next (s.setCur (s.cur.raise .notFound a))
  else onRead (readInstrument s a.toNat) fun I => .next (s.setCur ((s.cur.select a I).advance 2))

/-- `PITCH w` (R133): the pitch and nothing else. -/
def execPitch (w : Half) (s : State) : Result :=
  .next (s.setCur ({ s.cur with pitch := pitchOf w }.advance 3))

end Sys2Proof.Machine
end

