-- ==== Sys2Proof/Machine/Effects.lean ====
section
/-! DEFINITION. The effect instructions and the oscillators (43_effects.md). -/

namespace Sys2Proof.Machine

/-- `Off(ph, dep)` (R150): the table entry of the top six phase bits, times the depth, over `WAVE_PEAK`. -/
def oscOffset (p : Config) (ph dep : Byte) : Int :=
  tdiv (p.wave[ph.toNat / 4]'(by omega) * (dep.toNat : Int)) Config.wavePeak

/-- Both phases advanced by their speeds modulo 256 (R113, R153). -/
def Channel.advancePhases (x : Channel) : Channel :=
  { x with vph := x.vph + x.vspd, tph := x.tph + x.tspd }

/-- `VIB a, b` (R155). -/
def execVib (a b : Byte) (s : State) : Result :=
  .next (s.setCur ((s.cur.setVib a b).advance 3))

/-- `VIBOFF` (R156). -/
def execViboff (s : State) : Result :=
  .next (s.setCur ((s.cur.setVib 0 0).advance 1))

/-- `TREM a, b` (R157). -/
def execTrem (a b : Byte) (s : State) : Result :=
  .next (s.setCur ((s.cur.setTrem a b).advance 3))

/-- `TREMOFF` (R158). -/
def execTremoff (s : State) : Result :=
  .next (s.setCur ((s.cur.setTrem 0 0).advance 1))

end Sys2Proof.Machine
end

