-- ==== Sys2Proof/Machine/Flow.lean ====
section
/-! DEFINITION. The flow instructions and the unknown opcodes (44_flow.md). -/

namespace Sys2Proof.Machine

/-- `Transfer(c, t)` (40_sequencer.md R119) for a channel that becomes `x` when the transfer is taken: at
`RUNAWAY_LIMIT` taken transfers the event is raised instead and nothing of the instruction happens (R244).
`op` is the opcode byte of the transfer (R167, R168, log 17). -/
def transfer (op : Byte) (x : Channel) (s : State) : State :=
  if s.seqr.xfers.val = Config.runawayLimit then s.setCur (s.cur.raise .runawayLoop op)
  else { s.setCur x with seqr := { s.seqr with xfers := s.seqr.xfers + 1 } }

/-- `WAIT a` (R166): 0 does not block. -/
def execWait (a : Byte) (s : State) : Result :=
  .next (s.setCur (if a = 0 then s.cur.advance 2 else { s.cur.advance 2 with wait := a, st := .waiting }))

/-- `JMP w` (R167). -/
def execJmp (w : Half) (s : State) : Result :=
  .next (transfer 0x0B { s.cur with pc := w } s)

/-- `LOOP a, w` (R168). -/
def execLoop (a : Byte) (w : Half) (s : State) : Result :=
  let n := loopCount s.cur.lc a
  if n.toNat ≤ 1 then .next (s.setCur ({ s.cur with lc := 0 }.advance 4))
  else .next (transfer 0x0C { s.cur with lc := n - 1, pc := w } s)

/-- `END` (R170): `pc` stays at the `END`. -/
def execEndSeq (s : State) : Result :=
  .next (s.setCur (s.cur.halt .endExecuted))

/-- An unknown opcode (R171): the event is recorded, then `cfg.unkskip` decides. -/
def execUnknown (op : Byte) (s : State) : Result :=
  if s.unkskip then .next (s.setCur ((s.cur.latch .unknownOpcode op).advance 1))
  else .next (s.setCur (s.cur.raise .unknownOpcode op))

end Sys2Proof.Machine
end

