-- ==== Sys2Proof/Machine/Volume.lean ====
section
/-! DEFINITION. The volume instructions VOL and VOLADD (42_volume.md). -/

namespace Sys2Proof.Machine

/-- `VOL a` (R141). -/
def execVol (a : Byte) (s : State) : Result :=
  .next (s.setCur ({ s.cur with vol := volOf a.toNat }.advance 2))

/-- `VOLADD a` (R142). -/
def execVoladd (a : Byte) (s : State) : Result :=
  .next (s.setCur ({ s.cur with vol := volPlus s.cur.vol a }.advance 2))

end Sys2Proof.Machine
end

