-- ==== Sys2Proof/Machine/Sequencer.lean ====
section
/-! DEFINITION. The channel state machine and the tick (40_sequencer.md). -/

namespace Sys2Proof.Machine

/-- `Decode(q, o)` (30_encoding.md R95) as the fetch of R117. An offset at or past the declared end reads no
code byte; an instruction cut by it reads no operand byte (R100). -/
def fetch (s : State) (q o : Nat) : Except Fault (Except DecodeError (Bytecode × Nat)) := do
  let S ← readSeq s q
  if S.len ≤ o then .ok (.error .pastEnd)
  else
    let op ← memReadByte s (S.code + o)
    if S.len < o + ilen op then .ok (.error .pastEnd)
    else
      let bs ← memReadBytes s (S.code + o) (ilen op)
      .ok (decodeStream bs)

/-- The fetch of the executing channel: `Decode(ch[c].seq, ch[c].pc)` (R117). -/
def fetchCur (s : State) : Except Fault (Except DecodeError (Bytecode × Nat)) :=
  fetch s s.cur.seq.toNat s.cur.pc.toNat

/-- `Execute(c, d)` (R118): the rule of the decoded variant. -/
def execute : Bytecode → State → Result
  | .endSeq, s => execEndSeq s
  | .note w, s => execNote w s
  | .instr a, s => execInstr a s
  | .vol a, s => execVol a s
  | .volAdd a, s => execVoladd a s
  | .pitch w, s => execPitch w s
  | .vib a b, s => execVib a b s
  | .vibOff, s => execViboff s
  | .trem a b, s => execTrem a b s
  | .tremOff, s => execTremoff s
  | .wait a, s => execWait a s
  | .jmp w, s => execJmp w s
  | .loop a w, s => execLoop a w s
  | .unknown op, s => execUnknown op s

/-- One pass of the loop of `Slice` (R116), with `ex` as `Execute`: fetch, then either the stop of R117 or
the instruction. -/
def slicePass (ex : Bytecode → State → Result) (s : State) : Result :=
  onRead (fetchCur s) fun d =>
    match d with
    | .error _ => .next (s.setCur (s.cur.halt .pastEnd))
    | .ok i => ex i.1 s

/-- The end of a slice: no slice in progress. -/
def State.leaveSlice (s : State) : State := { s with seqr := Sequencer.idle }

/-- `Slice(c)` from its `while` on (R116), with at most `n` passes. -/
def sliceLoop : Nat → State → Result
  | 0, s => if s.cur.st = .running then .fault .sliceBound else .next s.leaveSlice
  | n + 1, s =>
    if s.cur.st = .running then andThen (slicePass execute s) (sliceLoop n) else .next s.leaveSlice

/-- More passes than any slice makes: R119 bounds the instructions by `257 * 65535` (log 10). -/
def slicePasses : Nat := 257 * 65536

/-- The start of a slice of channel `c`: `xfers <- 0` (R116). -/
def State.enterSlice (s : State) (c : Fin 4) : State :=
  { s with seqr := { active := true, chan := c, xfers := 0 } }

/-- `Slice(c)` (R116). -/
def slice (c : Fin 4) (s : State) : Result := sliceLoop slicePasses (s.enterSlice c)

/-- `ChanTick(c)` (R113 to R115). -/
def chanTick (c : Fin 4) (s : State) : Result :=
  match (s.chan c).st with
  | .idle => .next s
  | .stopped => .next s
  | .running => slice c (s.setChan c (s.chan c).advancePhases)
  | .waiting =>
    let x := { (s.chan c).advancePhases with wait := (s.chan c).wait - 1 }
    if x.wait ≠ 0 then .next (s.setChan c x)
    else slice c (s.setChan c { x with st := .running })

/-- `Tick()` (R112): the four channels in ascending order. -/
def tick (s : State) : Result :=
  andThen (chanTick 0 s) fun s => andThen (chanTick 1 s) fun s => andThen (chanTick 2 s) (chanTick 3)

end Sys2Proof.Machine
end

