-- ==== Sys2Proof/Machine/Synth.lean ====
section
/-! DEFINITION. The modulator, the sample loop stepper and the mixer (45_synth_mixer.md). -/

namespace Sys2Proof.Machine

/-- `pe` (R183): the pitch with vibrato, clamped to 1..65535. -/
def effPitch (p : Config) (x : Channel) : Nat :=
  (clamp (x.pitch.toNat + oscOffset p x.vph x.vdep) Config.pitchMin Config.pitchMax).toNat

/-- `ve` (R184): the volume with tremolo, clamped to 0..64. -/
def effVol (p : Config) (x : Channel) : Nat :=
  (clamp (x.vol.toNat + oscOffset p x.tph x.tdep) 0 Config.volMax).toNat

/-- `step` (R185): the cursor step of a frame, unsigned Q16.16, saturated to 32 bits. -/
def cursorStep (p : Config) (pe rate basePitch : Nat) : Nat :=
  min (2 ^ 32 - 1) (pe * rate * 65536 / (max basePitch 1 * p.outputRate))

/-- The cursor written back (R188, R189). Only a cursor whose integer part the fetch found inside `M` is written,
so the integer part fits its 32 bits (log 6). -/
def Channel.setCursor (x : Channel) (cur : Nat) : Channel :=
  { x with curi := BitVec.ofNat 32 (cur / 65536), curf := BitVec.ofNat 16 (cur % 65536) }

/-- The loop wrap of R188: the cursor after it, and whether it wrapped. -/
def loopWrap (S : Sample) (cur : Nat) : Nat × Bool :=
  let ls := S.loopStart * 65536
  let ll := S.loopLength * 65536
  if ls + ll ≤ cur then (ls + (cur - ls) % ll, true) else (cur, false)

/-- The advanced cursor of R186 as an exact integer. -/
def advancedCursor (p : Config) (x : Channel) (I : Instrument) (S : Sample) : Nat :=
  x.curi.toNat * 65536 + x.curf.toNat + cursorStep p (effPitch p x) S.rate I.basePitch

/-- The fetch and the scaling of a sounding channel that becomes `x`, at cursor `cur` (R188 to R191). The fetch is at
the cursor's integer part as a mathematical integer: one of 2^32 or more lies beyond every `M`, so it faults (R62,
R202, log 6). -/
def soundAt (s : State) (x : Channel) (S : Sample) (cur : Nat) : Except Fault (Int × Channel) := do
  let amp ← readAmp s S (cur / 65536)
  .ok (amp * effVol s.par x, x.setCursor cur)

/-- The sounding case of `ChanFrame` (R183 to R191): step, wrap or stop, fetch, scale. -/
def soundFrame (s : State) (x : Channel) (I : Instrument) (S : Sample) : Except Fault (Int × Channel) :=
  let cur := advancedCursor s.par x I S
  if S.loopLength ≠ 0 then
    let w := loopWrap S cur
    soundAt s { x with looped := x.looped || w.2 } S w.1
  else if S.length * 65536 ≤ cur then
    .ok (0, { x with curi := BitVec.ofNat 32 S.length, curf := 0 }.halt .sampleEnd)
  else soundAt s x S cur

/-- `ChanFrame(c)` (R192): the contribution, and the channel's register set after the frame. -/
def chanFrame (s : State) (c : Fin 4) : Except Fault (Int × Channel) :=
  let x := s.chan c
  if x.live = false then .ok (0, x)
  else if x.insv = false then .ok (0, x)
  else do
    let I ← readInstrument s x.ins.toNat
    let S ← readSample s I.sample
    if x.gate = false then .ok (I.silence, x) else soundFrame s x I S

/-- The contributions of the four channels, in ascending order, and the state they leave (R180, R197). -/
def frameChans (s : State) : Except Fault ((Int × Int × Int × Int) × State) := do
  let r0 ← chanFrame s 0
  let s := s.setChan 0 r0.2
  let r1 ← chanFrame s 1
  let s := s.setChan 1 r1.2
  let r2 ← chanFrame s 2
  let s := s.setChan 2 r2.2
  let r3 ← chanFrame s 3
  let s := s.setChan 3 r3.2
  .ok ((r0.1, r1.1, r2.1, r3.1), s)

/-- The words of one frame (R194, R196): left is channels 0 and 3, right is channels 1 and 2. -/
def mixWords (mono : Bool) (k : Int × Int × Int × Int) : List Half :=
  let l := k.1 + k.2.2.2
  let r := k.2.1 + k.2.2.1
  if mono then [BitVec.ofInt 16 (l + r)] else [BitVec.ofInt 16 l, BitVec.ofInt 16 r]

/-- `Frame()` (R197). -/
def frame (s : State) : Result :=
  onRead (frameChans s) fun r => .next { r.2 with out := r.2.out ++ mixWords r.2.mono r.1 }

/-- `Render(n)` (R200). -/
def renderFrames : Nat → State → Result
  | 0, s => .next s
  | n + 1, s => andThen (frame s) (renderFrames n)

end Sys2Proof.Machine
end

