-- ==== Sys2Proof/Machine/HostCommands.lean ====
section
/-! DEFINITION. The six host commands and the operations of the memory port (46_host_commands.md). -/

namespace Sys2Proof.Machine

/-- The low half of an argument register, as `LOAD` and `START` use it (R212, R214). -/
def lowHalf (v : Word) : Half := v.extractLsb' 0 16

/-- The directory in `arg[0..7]` (R212). -/
def argDirectory (s : State) : Directory where
  smpBase := s.arg[0]
  smpCnt := lowHalf s.arg[1]
  insBase := s.arg[2]
  insCnt := lowHalf s.arg[3]
  seqBase := s.arg[4]
  seqCnt := lowHalf s.arg[5]
  sndBase := s.arg[6]
  sndCnt := lowHalf s.arg[7]

/-- The check of `LOAD` on the `k` instruments from `i` on, ascending (R212): the first whose sample
identifier is dangling, with that identifier. -/
def findDangling (s : State) : Nat → Nat → Except Fault (Option (Nat × Nat))
  | _, 0 => .ok none
  | i, k + 1 => do
    let r ← memRead s (insAddr s i) 2
    if s.dir.smpCnt.toNat ≤ r then .ok (some (i, r)) else findDangling s (i + 1) k

/-- What `LOAD` writes before its checks (R212). -/
def loadBegin (s : State) : State :=
  { s.resetChans with
    loaded := false, facc := 0, sndId := 0, sndValid := false, lderrRec := 0, lderrRef := 0,
    dir := argDirectory s }

/-- `LOAD` (R212). -/
def execLoad (s : State) : Result :=
  let t := loadBegin s
  onRead (findDangling t 0 t.dir.insCnt.toNat) fun r =>
    match r with
    | none => .next { t with loaded := true, result := .ok }
    | some bad =>
      .next { t with
        lderrRec := BitVec.ofNat 16 bad.1, lderrRef := BitVec.ofNat 16 bad.2,
        dir := Directory.zero, result := .loadError }

/-- The four sequence identifiers of sound `i` (R74). -/
def readSoundSeqs (s : State) (i : Nat) : Except Fault (Vector Nat 4) := do
  let q0 ← readSound s i 0
  let q1 ← readSound s i 1
  let q2 ← readSound s i 2
  let q3 ← readSound s i 3
  .ok #v[q0, q1, q2, q3]

/-- A sequence identifier that `START` does not find (R214). -/
def seqMissing (s : State) (q : Nat) : Bool :=
  decide (q ≠ Config.seqNone ∧ s.dir.seqCnt.toNat ≤ q)

/-- `START` (R214). -/
def execStart (s : State) : Result :=
  let i := lowHalf s.arg[0]
  if s.dir.sndCnt.toNat ≤ i.toNat then .next { s with result := .notFound }
  else onRead (readSoundSeqs s i.toNat) fun q =>
    if seqMissing s q[0] || seqMissing s q[1] || seqMissing s q[2] || seqMissing s q[3] then
      .next { s with result := .notFound }
    else
      .next { s with
        ch := {
          ch0 := Channel.started q[0], ch1 := Channel.started q[1],
          ch2 := Channel.started q[2], ch3 := Channel.started q[3] },
        facc := 0, sndId := i, sndValid := true, result := .ok }

/-- The end of a command that cannot fail: `result <- 0`. -/
def State.succeed (s : State) : State := { s with result := .ok }

/-- `TICK` (R218). -/
def execTick (s : State) : Result :=
  andThen (tick s) fun t => .next t.succeed

/-- `RENDER` (R220). -/
def execRender (s : State) : Result :=
  andThen (renderFrames s.arg[0].toNat s) fun t => .next t.succeed

/-- `STOP` on one channel (R222). -/
def Channel.hostStop (x : Channel) : Channel :=
  if x.live then x.halt .hostStop else x

/-- `STOP` (R222). -/
def execStop (s : State) : Result :=
  .next { s with ch := s.ch.map Channel.hostStop, sndValid := false, result := .ok }

/-- `facc + FPT_Q16` (R226), exact. -/
def frameDebt (s : State) : Nat := s.facc.toNat + s.par.fptQ16

/-- `RUNTICK` (R226). -/
def execRuntick (s : State) : Result :=
  andThen (tick s) fun t =>
    let n := frameDebt t / 65536
    andThen (renderFrames n { t with facc := BitVec.ofNat 16 (frameDebt t % 65536) }) fun u =>
      .next { u with arg := u.arg.set 0 (BitVec.ofNat 32 n), result := .ok }

/-- A command code that is not in the table (R211). -/
def badCommand (s : State) : State := { s with result := .badCmd }

/-- `MemWrite(a, v)` within the memory (R232): the write unloads the data set and resets the channels. -/
def hostMemWrite (a : Nat) (v : Byte) (s : State) : State :=
  { s.resetChans with
    mem := s.mem.write a v, loaded := false, sndValid := false, dir := Directory.zero }

/-- The platform's reset (R46, R270): every field as after reset, `M` unspecified (U2, log 5); the instance's
parameters and what the host will do next are not the block's and stay. -/
def platformReset (s : State) : State :=
  { State.reset with
    par := s.par, mem := Memory.fill s.par.memSize (Config.unspecifiedByte s.epoch), host := s.host,
    epoch := s.epoch + 1 }

end Sys2Proof.Machine
end

