-- ==== Sys2Proof/Machine/Dispatch.lean ====
section
/-! DEFINITION. One arm per instruction, each one call of its meaning. -/

namespace Sys2Proof.Machine

/-- The meaning of an instruction: a bytecode instruction acts on the executing channel, a host command on
the block. -/
def exec (i : Instr) (s : State) : Host.Outcome State Fault Refusal :=
  match i with
  | .endSeq => Sys2Proof.Machine.execEndSeq s
  | .note w => Sys2Proof.Machine.execNote w s
  | .instr a => Sys2Proof.Machine.execInstr a s
  | .vol a => Sys2Proof.Machine.execVol a s
  | .voladd a => Sys2Proof.Machine.execVoladd a s
  | .pitch w => Sys2Proof.Machine.execPitch w s
  | .vib a b => Sys2Proof.Machine.execVib a b s
  | .viboff => Sys2Proof.Machine.execViboff s
  | .trem a b => Sys2Proof.Machine.execTrem a b s
  | .tremoff => Sys2Proof.Machine.execTremoff s
  | .wait a => Sys2Proof.Machine.execWait a s
  | .jmp w => Sys2Proof.Machine.execJmp w s
  | .loop a w => Sys2Proof.Machine.execLoop a w s
  | .unknown op => Sys2Proof.Machine.execUnknown op s
  | .load => Sys2Proof.Machine.execLoad s
  | .start => Sys2Proof.Machine.execStart s
  | .tick => Sys2Proof.Machine.execTick s
  | .render => Sys2Proof.Machine.execRender s
  | .stop => Sys2Proof.Machine.execStop s
  | .runtick => Sys2Proof.Machine.execRuntick s

end Sys2Proof.Machine
end

