-- ==== Sys2Proof/Machine/Regs.lean ====
section
/-! DEFINITION. The host register file (10_state.md R40 to R43): reads assembled from the state, writes to
`CFG` and `ARGk`. A write to `CMD` executes a command and is in `Port.lean`. -/

namespace Sys2Proof.Machine

/-- A flag as a one-bit field. -/
def flagBit (b : Bool) : BitVec 1 := BitVec.ofBool b

/-- Register `CFG` (R40): bit 2, `ENVEN`, is hard-wired 0 (log 16). -/
def cfgWord (s : State) : Word := (0 : BitVec 30) ++ flagBit s.mono ++ flagBit s.unkskip

/-- Some channel is `RUNNING` or `WAITING` (R41, R19). -/
def State.active (s : State) : Bool :=
  (s.chan 0).live || (s.chan 1).live || (s.chan 2).live || (s.chan 3).live

/-- Register `STATUS` (R41). -/
def statusWord (s : State) : Word :=
  (0 : BitVec 24) ++ flagBit (s.chan 3).errFlag ++ flagBit (s.chan 2).errFlag ++ flagBit (s.chan 1).errFlag
    ++ flagBit (s.chan 0).errFlag ++ (0 : BitVec 1) ++ flagBit s.sndValid ++ flagBit s.active ++ flagBit s.loaded

/-- Channel register `k` (R43). -/
def channelWord (x : Channel) (k : Nat) : Word :=
  match k with
  | 0 => (0 : BitVec 21) ++ x.stopc.code ++ (0 : BitVec 3) ++ flagBit x.looped ++ flagBit x.insv
      ++ flagBit x.gate ++ x.st.code
  | 1 => x.seq ++ x.pc
  | 2 => (0 : BitVec 16) ++ x.lc ++ x.wait
  | 3 => x.ins ++ (0 : BitVec 1) ++ x.vol ++ x.pitch
  | 4 => x.curi
  | 5 => (0 : BitVec 16) ++ x.curf
  | 6 => (0 : BitVec 8) ++ x.vph ++ x.vspd ++ x.vdep
  | 7 => (0 : BitVec 8) ++ x.tph ++ x.tspd ++ x.tdep
  | 8 => x.errpc ++ x.errb ++ (0 : BitVec 5) ++ x.err.code
  | _ => 0

/-- A 16-bit field in bits 15:0. -/
def halfWord (v : Half) : Word := (0 : BitVec 16) ++ v

/-- A global register of R42, numbers 0x00 to 0x1F; `CMD` and the reserved ones read 0. -/
def globalWord (s : State) (n : Nat) : Word :=
  match n with
  | 0x01 => (0 : BitVec 29) ++ s.result.code
  | 0x02 => cfgWord s
  | 0x03 => statusWord s
  | 0x04 => s.lderrRef ++ s.lderrRec
  | 0x05 => (0 : BitVec 15) ++ flagBit s.sndValid ++ s.sndId
  | 0x06 => halfWord s.facc
  | 0x08 => s.arg[0]
  | 0x09 => s.arg[1]
  | 0x0A => s.arg[2]
  | 0x0B => s.arg[3]
  | 0x0C => s.arg[4]
  | 0x0D => s.arg[5]
  | 0x0E => s.arg[6]
  | 0x0F => s.arg[7]
  | 0x10 => s.dir.smpBase
  | 0x11 => halfWord s.dir.smpCnt
  | 0x12 => s.dir.insBase
  | 0x13 => halfWord s.dir.insCnt
  | 0x14 => s.dir.seqBase
  | 0x15 => halfWord s.dir.seqCnt
  | 0x16 => s.dir.sndBase
  | 0x17 => halfWord s.dir.sndCnt
  | _ => 0

/-- `RegRead(n)` (R230): registers 0x20 + 0x10 * c + k are channel `c`'s, 0x60 and up are reserved. -/
def regRead (s : State) (n : Byte) : Word :=
  if n.toNat < 0x20 then globalWord s n.toNat
  else if n.toNat < 0x60 then channelWord (s.chan (Fin.ofNat 4 ((n.toNat - 0x20) / 16))) (n.toNat % 16)
  else 0

/-- `RegWrite(n, v)` for `n` other than `CMD` (R231): `CFG` takes its two low bits, `ARGk` the word, any
other register ignores the write. -/
def regWrite (n : Byte) (v : Word) (s : State) : State :=
  if n.toNat = 0x02 then { s with unkskip := v.getLsbD 0, mono := v.getLsbD 1 }
  else if h : 0x08 ≤ n.toNat ∧ n.toNat < 0x10 then
    { s with arg := s.arg.set (n.toNat - 0x08) v (by omega) }
  else s

end Sys2Proof.Machine
end

