-- ==== Sys2Proof/Machine/Port.lean ====
section
/-! DEFINITION. What one step of the machine does: the next host operation between commands
(46_host_commands.md), or the next instruction of a slice in progress (40_sequencer.md R116). -/

namespace Sys2Proof.Machine

/-- A write of code `v` to register `CMD` (R210, R211). -/
def command (v : Byte) (s : State) : Result :=
  match decode .cmd [v] with
  | .ok d => exec d.1 s
  | .error _ => .next (badCommand s)

/-- The low byte of the value written to `CMD`; bits 31:8 are ignored (R210). -/
def commandCode (v : Word) : Byte := v.extractLsb' 0 8

/-- One host operation (R230 to R233, R270). A read leaves its value in the model's own field `rdata` and
changes nothing else. -/
def serve (op : HostOp) (s : State) : Result :=
  match op with
  | .regWrite n v => if n.toNat = 0 then command (commandCode v) s else .next (regWrite n v s)
  | .regRead n => .next { s with rdata := regRead s n }
  | .memWrite a v =>
    if a.toNat < s.par.memSize then .next (hostMemWrite a.toNat v s) else .fault (.memWrite a.toNat)
  | .memReadHost a => onRead (memRead s a.toNat 1) fun v => .next { s with rdata := BitVec.ofNat 32 v }
  | .reset => .next (platformReset s)

/-- Between commands: the next host operation, if there is one; with none, nothing happens by itself (R19). -/
def stepHost (s : State) : Result :=
  match s.host with
  | [] => .next s
  | op :: rest => serve op { s with host := rest }

/-- Inside a slice: one pass of its loop, or its end (R116). -/
def stepSlice (s : State) : Result :=
  if s.cur.st = .running then slicePass (fun b t => exec b.toInstr t) s else .next s.leaveSlice

/-- The sequence record and the code bytes that hold the stream bytes of `w`: the record at address 0 (code
at 8, length 4), the bytes from 8 on. -/
def placeCode (w : Nat) (m : Memory) : Memory :=
  let record : List Byte := [0, 0, 0, 8, 0, 4, 0, 0]
  (record ++ tableBytes w).zipIdx.foldl (fun m e => m.write e.2 e.1) m

/-- The state in which channel 0 is about to fetch the stream bytes of `w` as the first instruction of a
slice (log 15). -/
def withStreamWord (s : State) (w : Nat) : State :=
  { s.setChan 0 { s.chan 0 with st := .running, seq := 0, pc := 0 } with
    mem := placeCode w s.mem, loaded := true, dir := { s.dir with seqBase := 0, seqCnt := 1 },
    seqr := { active := true, chan := 0, xfers := 0 } }

/-- The state in which the host is about to write `w` to register `CMD` (log 15). -/
def withCommandWord (s : State) (w : Nat) : State :=
  { s with seqr := Sequencer.idle, host := .regWrite 0 (BitVec.ofNat 32 w) :: s.host }

end Sys2Proof.Machine
end

