-- ==== Sys2Proof/Machine/Step.lean ====
section
/-! DEFINITION. One step of the machine, and the state whose next step runs a given instruction. -/

namespace Sys2Proof.Machine

/-- One step: an instruction of the slice in progress, else the next host operation. -/
def step (s : State) : Host.Outcome State Fault Refusal :=
  if s.seqr.active then stepSlice s else stepHost s

/-- `s` with the instruction of a word of `spec/opcode_table.json` where the next step takes it from. -/
def State.withFetchWord (s : State) (nbits w : Nat) : State :=
  match tablePort nbits w with
  | .stream => withStreamWord s w
  | .cmd => withCommandWord s w

end Sys2Proof.Machine
end

