-- ==== Sys2Proof/Safety.lean ====
section
/-! DEFINITION. What claims are said in terms of: the invariants of 10_state.md R48, the input contract of
70_reset_and_hazards.md R275, and what a frame condition covers. -/

namespace Sys2Proof.Machine

/-- What R48 (a) and (b), R38 and R246 say of one channel by itself. -/
structure Channel.Ok (x : Channel) : Prop where
  /-- R48 (a). -/
  pitch : 1 ≤ x.pitch.toNat
  /-- R48 (a). -/
  vol : x.vol.toNat ≤ 64
  /-- R48 (b). -/
  wait : x.st = .waiting → 1 ≤ x.wait.toNat
  /-- R38: `stopc` is 0 exactly while the channel is not `STOPPED`. -/
  stopc : x.st = .stopped ↔ x.stopc ≠ .notStopped
  /-- R38, R246: cause 5 comes with a recorded event. -/
  errorStop : x.stopc = .errorEvent → x.err ≠ .none

/-- The invariants of the block, in every state between two steps. -/
structure State.Inv (s : State) : Prop where
  /-- The memory keeps its canonical form. -/
  memWf : s.mem.wf = true
  /-- No byte is listed outside the memory (R21). -/
  memBound : ∀ e ∈ s.mem, e.1 < s.par.memSize
  /-- R22: while nothing is loaded the directory is 0. -/
  unloaded : s.loaded = false → s.dir = Directory.zero
  /-- R48 (a), (b). -/
  chans : ∀ c, (s.chan c).Ok
  /-- R48 (d). -/
  assigned : ∀ c, (s.chan c).live = true → s.loaded = true ∧ (s.chan c).seq.toNat < s.dir.seqCnt.toNat
  /-- R48 (e), first half. -/
  selected : ∀ c, (s.chan c).insv = true → (s.chan c).ins.toNat < s.dir.insCnt.toNat
  /-- R48 (e), second half: what `LOAD` checked. -/
  samples : s.loaded = true → ∀ i < s.dir.insCnt.toNat, ∀ r,
    memRead s (insAddr s i) 2 = .ok r → r < s.dir.smpCnt.toNat
  /-- R39: nothing of a slice is kept when none is in progress. -/
  quiet : s.seqr.active = false → s.seqr = Sequencer.idle

/-- The clauses (a), (b) and (e) of the input contract (R275): the tables, the samples' data and the
sequences' code lie inside `M`. -/
structure State.DataInside (s : State) : Prop where
  smpTable : s.dir.smpBase.toNat + 20 * s.dir.smpCnt.toNat ≤ s.par.memSize
  insTable : s.dir.insBase.toNat + 16 * s.dir.insCnt.toNat ≤ s.par.memSize
  seqTable : s.dir.seqBase.toNat + 8 * s.dir.seqCnt.toNat ≤ s.par.memSize
  sndTable : s.dir.sndBase.toNat + 8 * s.dir.sndCnt.toNat ≤ s.par.memSize
  /-- R275 (b). -/
  sampleData : ∀ k < s.dir.smpCnt.toNat, ∀ S, readSample s k = .ok S →
    1 ≤ S.length ∧ S.data + S.length ≤ s.par.memSize ∧
      (S.loopLength ≠ 0 → S.loopStart + S.loopLength ≤ S.length)
  /-- R275 (e). -/
  seqCode : ∀ q < s.dir.seqCnt.toNat, ∀ S, readSeq s q = .ok S → S.code + S.len ≤ s.par.memSize

/-- Everything but the channels, the slice in progress, `result`, `out`, `facc` and `arg` is the same in
`t` as in `s`; memory is compared through the read of one byte, and as data. -/
structure State.SameSetting (s t : State) : Prop where
  par : t.par = s.par
  bytes : ∀ a, t.mem.read a = s.mem.read a
  mem : t.mem = s.mem
  loaded : t.loaded = s.loaded
  dir : t.dir = s.dir
  unkskip : t.unkskip = s.unkskip
  mono : t.mono = s.mono
  lderrRec : t.lderrRec = s.lderrRec
  lderrRef : t.lderrRef = s.lderrRef
  sndId : t.sndId = s.sndId
  sndValid : t.sndValid = s.sndValid
  host : t.host = s.host
  rdata : t.rdata = s.rdata
  epoch : t.epoch = s.epoch

/-- `t` differs from `s` at most in channel `c` and in the slice in progress: the frame of every bytecode
instruction (R30, R44, R49). -/
structure State.OnlyChan (s t : State) (c : Fin 4) : Prop where
  setting : s.SameSetting t
  others : ∀ d, d ≠ c → t.chan d = s.chan d
  result : t.result = s.result
  out : t.out = s.out
  facc : t.facc = s.facc
  arg : t.arg = s.arg

/-- What the outcome of a tick for channel `c` may depend on (R112, R121): the parameters, `M`, the directory,
`cfg.unkskip` and the channel itself. -/
structure State.AgreeOn (s t : State) (c : Fin 4) : Prop where
  par : t.par = s.par
  mem : t.mem = s.mem
  dir : t.dir = s.dir
  unkskip : t.unkskip = s.unkskip
  chan : t.chan c = s.chan c

/-- A channel the stepper sounds (R181, case 4). -/
def Channel.sounding (x : Channel) : Bool := x.live && x.insv && x.gate

end Sys2Proof.Machine
end

