-- ==== Sys2Proof/Certificates/Slice0/Obligations.lean ====
section
/-! DEFINITION. The statements for the provers. -/

open Sys2Proof Sys2Proof.Machine

/-! ## Reset and the invariants -/

/-- The spec's own inference of 10_state.md section 5, "every register of rules R42 and R43 reads 0 after reset
except `CHc_VOICE`": after reset every host register reads 0, but `CHc_VOICE` (0x23, 0x33, 0x43, 0x53) reads 1. -/
def Obligations.ResetRegistersReadZeroButVoice : Prop :=
  ∀ n : Byte, regRead State.reset n =
    if n.toNat = 0x23 ∨ n.toNat = 0x33 ∨ n.toNat = 0x43 ∨ n.toNat = 0x53 then 1 else 0

/-- 10_state.md sections 2, 3 and 5: the values reset leaves in the global state and in every field of every
channel, `M` apart; and the invariants (section 6) hold there. -/
def Obligations.ResetLeavesTheSpecsValuesAndTheInvariants : Prop :=
  (State.reset.loaded = false ∧ State.reset.dir = ⟨0, 0, 0, 0, 0, 0, 0, 0⟩ ∧ State.reset.unkskip = false ∧
    State.reset.mono = false ∧ State.reset.result.code = 0 ∧ State.reset.lderrRec = 0 ∧
    State.reset.lderrRef = 0 ∧ State.reset.sndId = 0 ∧ State.reset.sndValid = false ∧ State.reset.facc = 0 ∧
    State.reset.out = [] ∧ (∀ k : Fin 8, State.reset.arg[k] = 0)) ∧
  (∀ c : Fin 4,
    let x := State.reset.chan c
    x.st = .idle ∧ x.seq = 0 ∧ x.pc = 0 ∧ x.wait = 0 ∧ x.lc = 0 ∧ x.ins = 0 ∧ x.insv = false ∧ x.pitch = 1 ∧
      x.vol = 0 ∧ x.gate = false ∧ x.curi = 0 ∧ x.curf = 0 ∧ x.looped = false ∧ x.vdep = 0 ∧ x.vspd = 0 ∧
      x.vph = 0 ∧ x.tdep = 0 ∧ x.tspd = 0 ∧ x.tph = 0 ∧ x.err.code = 0 ∧ x.errpc = 0 ∧ x.errb = 0 ∧
      x.stopc.code = 0) ∧
  State.reset.Inv

/-- 70_reset_and_hazards.md section 1: the platform's reset, from any state between commands, leaves every
field as after power-up; each byte of `M` is the free value of log 5 (the model's form of "unspecified"), and
the instance's parameters and the host's further operations stay. -/
def Obligations.PlatformResetFromAnyState : Prop :=
  ∀ (s : State) (rest : List HostOp), s.seqr.active = false → s.host = .reset :: rest →
    ∃ t, step s = .next t ∧
      t = { State.reset with par := s.par, mem := t.mem, host := rest, epoch := s.epoch + 1 } ∧
      t.mem.wf = true ∧ ∀ a < s.par.memSize, t.mem.read a = Config.unspecifiedByte s.epoch a

/-- Every step keeps the invariants: the canonical memory, R48 (a), (b), (d), (e), R22 and R38. -/
def Obligations.EveryStepKeepsInvariants : Prop :=
  ∀ s t : State, s.Inv → step s = .next t → t.Inv

/-! ## Encoding and decoding -/

/-- Decoding the bytes of a well-formed instruction, whatever follows them, gives it back with its length. -/
def Obligations.DecodingAnEncodedInstructionGivesItBack : Prop :=
  ∀ (i : Instr) (rest : List Byte), i.wellFormed = true →
    decode i.port (encode i ++ rest) = .ok (i, (encode i).length)

/-- What the stream decoder returns is well-formed and encodes to exactly the bytes it consumed, so that each
byte string has one meaning; and it rejects only bytes fewer than the opcode's length (30_encoding.md
sections 1 to 3). -/
def Obligations.StreamDecodingReencodesTheBytesConsumed : Prop :=
  (∀ (bs : List Byte) (b : Bytecode) (n : Nat), decodeStream bs = .ok (b, n) →
    b.toInstr.wellFormed = true ∧ b.toInstr.port = .stream ∧ n ≤ bs.length ∧ encode b.toInstr = bs.take n) ∧
  (∀ bs : List Byte, (∃ e, decodeStream bs = .error e) ↔
    bs = [] ∨ ∃ op rest, bs = op :: rest ∧ bs.length < ilen op)

/-- R98: the bytes 0x0D to 0xFF, and only they, decode to `Unknown` of the byte, with length 1. -/
def Obligations.UnknownOpcodesAreExactlyTheUnassignedBytes : Prop :=
  ∀ (op : Byte) (rest : List Byte),
    0x0D ≤ op.toNat ↔ decodeStream (op :: rest) = .ok (.unknown op, 1)

/-- A few words written out from the tables of 30_encoding.md and 46_host_commands.md decode to what they
stand for. -/
def Obligations.WordsWrittenOutFromTheSpecDecode : Prop :=
  decodeStream [0x01, 0x07, 0xD0] = .ok (.note 2000, 3) ∧
  decodeStream [0x02, 0x09] = .ok (.instr 9, 2) ∧
  decodeStream [0x04, 0xFB] = .ok (.volAdd 0xFB, 2) ∧
  decodeStream [0x06, 0x64, 0x40] = .ok (.vib 100 64, 3) ∧
  decodeStream [0x0B, 0x00, 0x0D] = .ok (.jmp 13, 3) ∧
  decodeStream [0x0C, 0x03, 0x00, 0x04] = .ok (.loop 3 4, 4) ∧
  decode .cmd [0x06] = .ok (.runtick, 1)

/-! ## What one step runs -/

/-- When the bytes at the executing channel's program counter, inside the sequence's declared length, are
those of a well-formed bytecode instruction, the next step is that instruction's meaning. -/
def Obligations.StepRunsTheInstructionAtThePc : Prop :=
  ∀ (s : State) (b : Bytecode) (S : SeqRecord), s.seqr.active = true → s.cur.st = .running →
    b.toInstr.wellFormed = true → readSeq s s.cur.seq.toNat = .ok S →
    s.cur.pc.toNat + (encode b.toInstr).length ≤ S.len →
    memReadBytes s (S.code + s.cur.pc.toNat) (encode b.toInstr).length = .ok (encode b.toInstr) →
    step s = exec b.toInstr s

/-- A fetch at or past the declared end, or of an instruction cut by it, stops the channel with cause 2;
`pc` and the error latches stay (40_sequencer.md section 3). -/
def Obligations.FetchPastTheEndStopsTheChannel : Prop :=
  ∀ (s : State) (S : SeqRecord) (op : Byte), s.seqr.active = true → s.cur.st = .running →
    readSeq s s.cur.seq.toNat = .ok S →
    (S.len ≤ s.cur.pc.toNat ∨
      (s.cur.pc.toNat < S.len ∧ memReadByte s (S.code + s.cur.pc.toNat) = .ok op ∧
        S.len < s.cur.pc.toNat + ilen op)) →
    ∃ t, step s = .next t ∧ t.cur = { s.cur with st := .stopped, stopc := .pastEnd } ∧
      StopCause.pastEnd.code = 2 ∧ t.seqr = s.seqr ∧ s.OnlyChan t s.seqr.chan

/-- A host write to `CMD` whose low byte is a command's code is that command's meaning, on the state in which
the host's next operations are the remaining ones (46_host_commands.md section 1). -/
def Obligations.StepExecutesTheCommandWritten : Prop :=
  ∀ (s : State) (k : Command) (v : Word) (rest : List HostOp), s.seqr.active = false →
    s.host = .regWrite 0 v :: rest → encode k.toInstr = [v.extractLsb' 0 8] →
    step s = exec k.toInstr { s with host := rest }

/-- R211: a code that is no command writes `result <- 7` and nothing else of the block. -/
def Obligations.BadCommandWritesResultOnly : Prop :=
  ∀ (s : State) (v : Word) (rest : List HostOp), s.seqr.active = false →
    s.host = .regWrite 0 v :: rest → (v.toNat % 256 = 0 ∨ 7 ≤ v.toNat % 256) →
    step s = .next { s with host := rest, result := .badCmd } ∧ CmdResult.badCmd.code = 7

/-- Nothing happens by itself: with no slice in progress and no host operation a step changes nothing; and a
slice whose channel is no longer `RUNNING` is over (00_scope.md R19, 40_sequencer.md section 3). -/
def Obligations.NothingHappensByItself : Prop :=
  (∀ s : State, s.seqr.active = false → s.host = [] → step s = .next s) ∧
  (∀ s : State, s.seqr.active = true → s.cur.st ≠ .running → step s = .next { s with seqr := ⟨false, 0, 0⟩ })

/-! ## The bytecode instructions: result, completion and frame -/

/-- R131: `NOTE w` sets the pitch, clamped to 1, opens the gate and restarts the sample; without an instrument
it does so too and the channel still contributes 0. -/
def Obligations.NoteSetsPitchOpensGateRestartsSample : Prop :=
  ∀ (w : Half) (s : State), encode (.note w) = [0x01, w.extractLsb' 8 8, w.extractLsb' 0 8] ∧
    ∃ t, exec (.note w) s = .next t ∧
    t.cur = { s.cur with
      pitch := if w = 0 then 1 else w, gate := true, curi := 0, curf := 0, looped := false,
      pc := s.cur.pc + 3 } ∧
    (s.cur.insv = false → chanFrame t s.seqr.chan = .ok (0, t.cur)) ∧
    t.seqr = s.seqr ∧ s.OnlyChan t s.seqr.chan

/-- `INSTR a` of an instrument that exists (41_voice.md section 3): the instrument, the cursor, the default
volume, the presets that are present; `pitch` and `gate` stay. -/
def Obligations.InstrSelectsAnExistingInstrument : Prop :=
  ∀ (a : Byte) (s : State) (I : Instrument), a.toNat < s.dir.insCnt.toNat →
    readInstrument s a.toNat = .ok I →
    ∃ t, exec (.instr a) s = .next t ∧
      t.cur = { s.cur with
        ins := a, insv := true, curi := 0, curf := 0, looped := false,
        vol := BitVec.ofNat 7 (min I.defvol 64),
        vdep := if I.flags.getLsbD 0 then I.vibDepth else s.cur.vdep,
        vspd := if I.flags.getLsbD 0 then I.vibSpeed else s.cur.vspd,
        vph := if I.flags.getLsbD 0 then 0 else s.cur.vph,
        tdep := if I.flags.getLsbD 1 then I.tremDepth else s.cur.tdep,
        tspd := if I.flags.getLsbD 1 then I.tremSpeed else s.cur.tspd,
        tph := if I.flags.getLsbD 1 then 0 else s.cur.tph,
        pc := s.cur.pc + 2 } ∧
      t.seqr = s.seqr ∧ s.OnlyChan t s.seqr.chan

/-- `INSTR a` of an instrument that does not exist raises `NotFound`: the event is recorded, the channel is
halted, nothing else of the instruction happens (60_exceptions.md section 1). -/
def Obligations.InstrOfAMissingInstrumentHaltsTheChannel : Prop :=
  ∀ (a : Byte) (s : State), s.dir.insCnt.toNat ≤ a.toNat →
    ∃ t, exec (.instr a) s = .next t ∧
      t.cur = { s.cur with
        err := .notFound, errpc := s.cur.pc, errb := a, st := .stopped, stopc := .errorEvent } ∧
      ChErr.notFound.code = 2 ∧ StopCause.errorEvent.code = 5 ∧
      t.seqr = s.seqr ∧ s.OnlyChan t s.seqr.chan

/-- R133: `PITCH w` writes the pitch, clamped, and `pc`. -/
def Obligations.PitchSetsThePitchAlone : Prop :=
  ∀ (w : Half) (s : State), encode (.pitch w) = [0x05, w.extractLsb' 8 8, w.extractLsb' 0 8] ∧
    ∃ t, exec (.pitch w) s = .next t ∧
      t.cur = { s.cur with pitch := if w = 0 then 1 else w, pc := s.cur.pc + 3 } ∧
      t.seqr = s.seqr ∧ s.OnlyChan t s.seqr.chan

/-- R141: `VOL a` writes `min(a, 64)`. -/
def Obligations.VolSetsTheClampedVolume : Prop :=
  ∀ (a : Byte) (s : State), encode (.vol a) = [0x03, a] ∧
    ∃ t, exec (.vol a) s = .next t ∧
      t.cur = { s.cur with vol := t.cur.vol, pc := s.cur.pc + 2 } ∧
      t.cur.vol.toNat = min a.toNat 64 ∧
      t.seqr = s.seqr ∧ s.OnlyChan t s.seqr.chan

/-- R142: `VOLADD a` adds the signed operand as an exact integer and clamps to 0..64; it never wraps. -/
def Obligations.VolAddSaturatesTheExactSum : Prop :=
  ∀ (a : Byte) (s : State), encode (.voladd a) = [0x04, a] ∧
    ∃ t, exec (.voladd a) s = .next t ∧
      t.cur = { s.cur with vol := t.cur.vol, pc := s.cur.pc + 2 } ∧
      (t.cur.vol.toNat : Int) = max 0 (min 64 ((s.cur.vol.toNat : Int) + a.toInt)) ∧
      t.seqr = s.seqr ∧ s.OnlyChan t s.seqr.chan

/-- `VIB a, b`, `VIBOFF`, `TREM a, b` and `TREMOFF` (43_effects.md sections 2 and 3): depth, speed, and the
phase restarted at 0; `pitch` and `vol` stay. -/
def Obligations.VibratoAndTremoloAreSetAndCleared : Prop :=
  (∀ a b : Byte, encode (.vib a b) = [0x06, a, b] ∧ encode .viboff = [0x07] ∧ encode (.trem a b) = [0x08, a, b] ∧
    encode .tremoff = [0x09]) ∧
  (∀ (a b : Byte) (s : State), ∃ t, exec (.vib a b) s = .next t ∧
    t.cur = { s.cur with vdep := a, vspd := b, vph := 0, pc := s.cur.pc + 3 } ∧
    t.seqr = s.seqr ∧ s.OnlyChan t s.seqr.chan) ∧
  (∀ s : State, ∃ t, exec .viboff s = .next t ∧
    t.cur = { s.cur with vdep := 0, vspd := 0, vph := 0, pc := s.cur.pc + 1 } ∧
    t.seqr = s.seqr ∧ s.OnlyChan t s.seqr.chan) ∧
  (∀ (a b : Byte) (s : State), ∃ t, exec (.trem a b) s = .next t ∧
    t.cur = { s.cur with tdep := a, tspd := b, tph := 0, pc := s.cur.pc + 3 } ∧
    t.seqr = s.seqr ∧ s.OnlyChan t s.seqr.chan) ∧
  (∀ s : State, ∃ t, exec .tremoff s = .next t ∧
    t.cur = { s.cur with tdep := 0, tspd := 0, tph := 0, pc := s.cur.pc + 1 } ∧
    t.seqr = s.seqr ∧ s.OnlyChan t s.seqr.chan)

/-- `WAIT a` (44_flow.md section 1): 0 does not block and does not write `wait`; any other count blocks. -/
def Obligations.WaitBlocksUnlessTheCountIsZero : Prop :=
  ∀ (a : Byte) (s : State), ∃ t, exec (.wait a) s = .next t ∧
    t.cur = (if a = 0 then { s.cur with pc := s.cur.pc + 2 }
      else { s.cur with pc := s.cur.pc + 2, wait := a, st := .waiting }) ∧
    t.seqr = s.seqr ∧ s.OnlyChan t s.seqr.chan

/-- `JMP w` below the runaway bound (44_flow.md section 2): the target is loaded unchecked and the transfer is
counted; nothing else is written. -/
def Obligations.JmpTransfersAndCounts : Prop :=
  ∀ (w : Half) (s : State), s.seqr.xfers.val < 256 → ∃ t, exec (.jmp w) s = .next t ∧
    t.cur = { s.cur with pc := w } ∧
    t.seqr.xfers.val = s.seqr.xfers.val + 1 ∧ t.seqr.chan = s.seqr.chan ∧ t.seqr.active = s.seqr.active ∧
    s.OnlyChan t s.seqr.chan

/-- `LOOP a, w` (44_flow.md section 3): with `n` the running count, at most 1 falls through and clears `lc`;
otherwise, below the runaway bound, it branches back with `lc = n - 1` and counts the transfer. -/
def Obligations.LoopFallsThroughOrBranchesBack : Prop :=
  ∀ (a : Byte) (w : Half) (s : State) (n : Nat), n = (if s.cur.lc = 0 then a.toNat else s.cur.lc.toNat) →
    (n ≤ 1 → ∃ t, exec (.loop a w) s = .next t ∧
      t.cur = { s.cur with lc := 0, pc := s.cur.pc + 4 } ∧ t.seqr = s.seqr ∧ s.OnlyChan t s.seqr.chan) ∧
    (2 ≤ n → s.seqr.xfers.val < 256 → ∃ t, exec (.loop a w) s = .next t ∧
      t.cur = { s.cur with lc := BitVec.ofNat 8 (n - 1), pc := w } ∧
      t.seqr.xfers.val = s.seqr.xfers.val + 1 ∧ t.seqr.chan = s.seqr.chan ∧ t.seqr.active = s.seqr.active ∧
      s.OnlyChan t s.seqr.chan)

/-- At 256 taken transfers `JMP`, and a `LOOP` that would branch, raise `RunawayLoop` with their opcode byte;
neither `lc` nor `pc` is written (40_sequencer.md section 3, 60_exceptions.md section 1). -/
def Obligations.TheNextTransferAfter256RaisesRunawayLoop : Prop :=
  ∀ (a : Byte) (w : Half) (s : State), s.seqr.xfers.val = 256 →
    (∃ t, exec (.jmp w) s = .next t ∧
      t.cur = { s.cur with
        err := .runawayLoop, errpc := s.cur.pc, errb := 0x0B, st := .stopped, stopc := .errorEvent } ∧
      t.seqr = s.seqr ∧ s.OnlyChan t s.seqr.chan) ∧
    (2 ≤ (if s.cur.lc = 0 then a.toNat else s.cur.lc.toNat) → ∃ t, exec (.loop a w) s = .next t ∧
      t.cur = { s.cur with
        err := .runawayLoop, errpc := s.cur.pc, errb := 0x0C, st := .stopped, stopc := .errorEvent } ∧
      t.seqr = s.seqr ∧ s.OnlyChan t s.seqr.chan) ∧
    ChErr.runawayLoop.code = 4

/-- `END` (44_flow.md section 4) stops the channel with cause 1 and writes neither `pc` nor the error latches. -/
def Obligations.EndStopsTheChannelAtTheEnd : Prop :=
  ∀ s : State, encode .endSeq = [0x00] ∧ ∃ t, exec .endSeq s = .next t ∧
    t.cur = { s.cur with st := .stopped, stopc := .endExecuted } ∧ StopCause.endExecuted.code = 1 ∧
    t.seqr = s.seqr ∧ s.OnlyChan t s.seqr.chan

/-- R171: an opcode byte from 0x0D on decodes to `Unknown`, with length 1; executing it records the event under
both policies, so that `STATUS.ERRc` reads 1; halt stops the channel with `pc` at the byte, skip goes on one byte
further. -/
def Obligations.UnknownOpcodeIsRecordedThenHaltsOrSkips : Prop :=
  ∀ (op : Byte) (s : State), (∀ rest, 0x0D ≤ op.toNat → decodeStream (op :: rest) = .ok (.unknown op, 1)) ∧
    ∃ t, exec (.unknown op) s = .next t ∧
    t.cur = (if s.unkskip = true then
        { s.cur with err := .unknownOpcode, errpc := s.cur.pc, errb := op, pc := s.cur.pc + 1 }
      else
        { s.cur with
          err := .unknownOpcode, errpc := s.cur.pc, errb := op, st := .stopped, stopc := .errorEvent }) ∧
    ChErr.unknownOpcode.code = 3 ∧ StopCause.errorEvent.code = 5 ∧
    (regRead t 3).getLsbD (4 + s.seqr.chan.val) = true ∧ t.seqr = s.seqr ∧ s.OnlyChan t s.seqr.chan

/-- Every bytecode instruction that answers a next state changes only its own channel's registers and the
transfer count: no other channel, no byte of memory, no global register, no output word; and never the
assigned sequence (10_state.md section 6). -/
def Obligations.BytecodeWritesOnlyItsOwnChannel : Prop :=
  ∀ (b : Bytecode) (s t : State), exec b.toInstr s = .next t →
    s.OnlyChan t s.seqr.chan ∧ t.cur.seq = s.cur.seq ∧
      t.seqr.chan = s.seqr.chan ∧ t.seqr.active = s.seqr.active ∧ s.seqr.xfers.val ≤ t.seqr.xfers.val

/-- The arrivals of the count property (44_flow.md section 3): arriving again and again at one `LOOP a, w`, with
`lc = 0` at the first arrival, `lc` handed on from each to the next, and no runaway, the `LOOP` branches back at the
first `max(a, 1) - 1` arrivals and falls through, leaving `lc = 0`, at arrival number `max(a, 1)`: a count of 0 acts as
1. What the body does between two arrivals is not part of the statement. -/
def Obligations.LoopBranchesBackCountMinusOneTimes : Prop :=
  ∀ (a : Byte) (w : Half) (before after : Nat → State), (before 0).cur.lc = 0 →
    (∀ k < max a.toNat 1, exec (.loop a w) (before k) = .next (after k)) →
    (∀ k < max a.toNat 1, (before k).seqr.xfers.val < 256) →
    (∀ k < max a.toNat 1, (before (k + 1)).cur.lc = (after k).cur.lc) →
    (∀ k < max a.toNat 1 - 1,
      (after k).cur.pc = w ∧ (after k).cur.lc.toNat = max a.toNat 1 - 1 - k) ∧
    (after (max a.toNat 1 - 1)).cur.lc = 0 ∧
    (after (max a.toNat 1 - 1)).cur.pc = (before (max a.toNat 1 - 1)).cur.pc + 4

/-! ## Slices and ticks -/

/-- Every slice ends: it never needs more passes than the model allows it (R119's bound, log 10), and it leaves the
channel not `RUNNING` (a `RUNNING` one `WAITING` or `STOPPED`) and no slice in progress. -/
def Obligations.EverySliceEndsNotRunning : Prop :=
  ∀ (c : Fin 4) (s : State), slice c s ≠ .fault .sliceBound ∧
    ∀ t, slice c s = .next t →
      (t.chan c).st ≠ .running ∧ t.seqr.active = false ∧
        ((s.chan c).st = .running → (t.chan c).st = .waiting ∨ (t.chan c).st = .stopped)

/-- A slice is the machine stepped one instruction at a time from the slice's start: the loop inside a tick
and the step on a slice in progress are the same semantics. That the model has both forms, an atomic `TICK` and a
slice that is stepped, is its own choice (log 2). -/
def Obligations.SliceEqualsSteppingItsInstructions : Prop :=
  ∀ (c : Fin 4) (s : State), ∃ k, Host.Core.run Sys2Proof.core k (s.enterSlice c) = slice c s

/-- `JMP` to itself ends in `RunawayLoop` within the slice, with everything else of the channel as it was
(44_flow.md section 2). -/
def Obligations.SelfJumpEndsInRunawayLoop : Prop :=
  ∀ (c : Fin 4) (s : State) (S : SeqRecord), (s.chan c).st = .running →
    readSeq s (s.chan c).seq.toNat = .ok S → (s.chan c).pc.toNat + 3 ≤ S.len →
    memReadBytes s (S.code + (s.chan c).pc.toNat) 3 =
      .ok [0x0B, (s.chan c).pc.extractLsb' 8 8, (s.chan c).pc.extractLsb' 0 8] →
    ∃ t, slice c s = .next t ∧
      t.chan c = { s.chan c with
        err := .runawayLoop, errpc := (s.chan c).pc, errb := 0x0B, st := .stopped, stopc := .errorEvent } ∧
      s.OnlyChan t c

/-- What `TICK` does to each kind of channel (40_sequencer.md section 2): nothing at all to one that is `IDLE` or
`STOPPED`, phases included; a `WAITING` one with more than one tick left advances its two phases and counts down; a
`WAITING` one with one tick left advances its phases, becomes `RUNNING` with `wait` 0 and runs its slice in this same
tick; a `RUNNING` one advances its phases and runs its slice. -/
def Obligations.TickTakesEachChannelByItsState : Prop :=
  ∀ (s t : State) (c : Fin 4), exec .tick s = .next t →
    let x := s.chan c
    let v := BitVec.ofNat 8 ((x.vph.toNat + x.vspd.toNat) % 256)
    let w := BitVec.ofNat 8 ((x.tph.toNat + x.tspd.toNat) % 256)
    ((x.st = .idle ∨ x.st = .stopped) → t.chan c = x) ∧
    (x.st = .waiting → 2 ≤ x.wait.toNat →
      t.chan c = { x with vph := v, tph := w, wait := BitVec.ofNat 8 (x.wait.toNat - 1) }) ∧
    (x.st = .waiting → x.wait.toNat = 1 → ∃ u,
      slice c (s.setChan c { x with vph := v, tph := w, wait := 0, st := .running }) = .next u ∧
        t.chan c = u.chan c) ∧
    (x.st = .running → ∃ u,
      slice c (s.setChan c { x with vph := v, tph := w }) = .next u ∧ t.chan c = u.chan c)

/-- `TICK` touches the channels and `result` only: no byte of memory, no output word, no `facc`, no `arg`; it
reports 0, and afterwards no channel is `RUNNING`, whatever events occurred (46_host_commands.md section 4). -/
def Obligations.TickTouchesChannelsAndResultOnly : Prop :=
  ∀ s t : State, exec .tick s = .next t →
    s.SameSetting t ∧ t.out = s.out ∧ t.facc = s.facc ∧ t.arg = s.arg ∧ t.result.code = 0 ∧
      ∀ c, (t.chan c).st ≠ .running

/-- Isolation (40_sequencer.md R121): what a tick does to a channel depends only on that channel, the
parameters, `M`, the directory and `cfg.unkskip`. -/
def Obligations.TickOfAChannelDependsOnItselfOnly : Prop :=
  ∀ (s s' t t' : State) (c : Fin 4), s.AgreeOn s' c → exec .tick s = .next t → exec .tick s' = .next t' →
    t.chan c = t'.chan c

/-- Two channels with equal registers (the same sequence, started together) stay equal under `TICK`, `RENDER`
and `RUNTICK`: they run independently and alike (95_test_vectors.md S6). -/
def Obligations.EqualChannelsStayEqual : Prop :=
  ∀ (i : Instr) (s t : State) (c d : Fin 4), (i = .tick ∨ i = .render ∨ i = .runtick) →
    s.chan c = s.chan d → exec i s = .next t → t.chan c = t.chan d

/-! ## The modulator, the stepper and the mixer -/

/-- R150: the oscillator's offset is the table entry of the top six phase bits times the depth, over 32 rounding
toward zero; it is at most the depth in size, and exactly the depth or its negative where the table stands at 32
or -32. Its use (45_synth_mixer.md section 2): the effective pitch and volume are the register plus the offset of the
channel's own phase and depth, clamped to 1 .. 65535 and to 0 .. 64. The last part is the spec's own inference
(43_effects.md section 1: "With `dep = 0` the offset is `tdiv(0, 32) = 0` whatever `WAVE` and the phase are"): with
depth 0 they are the unmodulated ones. -/
def Obligations.OscillatorOffsetsModulatePitchAndVolume : Prop :=
  (∀ (p : Config) (ph dep : Byte),
    oscOffset p ph dep = Int.tdiv (p.wave[ph.toNat / 4]'(by omega) * (dep.toNat : Int)) 32 ∧
    -(dep.toNat : Int) ≤ oscOffset p ph dep ∧ oscOffset p ph dep ≤ dep.toNat ∧
    (p.wave[ph.toNat / 4]'(by omega) = 32 → oscOffset p ph dep = dep.toNat) ∧
    (p.wave[ph.toNat / 4]'(by omega) = -32 → oscOffset p ph dep = -(dep.toNat : Int))) ∧
  (∀ (p : Config) (x : Channel),
    (effPitch p x : Int) = max 1 (min 65535 ((x.pitch.toNat : Int) + oscOffset p x.vph x.vdep)) ∧
    (effVol p x : Int) = max 0 (min 64 ((x.vol.toNat : Int) + oscOffset p x.tph x.tdep))) ∧
  (∀ (p : Config) (ph : Byte) (x : Channel),
    oscOffset p ph 0 = 0 ∧
    (x.vdep = 0 → 1 ≤ x.pitch.toNat → effPitch p x = x.pitch.toNat) ∧
    (x.tdep = 0 → x.vol.toNat ≤ 64 → effVol p x = x.vol.toNat))

/-- The silent cases of a frame, in their order (45_synth_mixer.md R181, R182): not active, or no instrument:
0; no note yet: the instrument's silence level; in each the channel is not written. -/
def Obligations.SilentChannelsContributeTheirLevel : Prop :=
  ∀ (s : State) (c : Fin 4),
    (((s.chan c).st = .idle ∨ (s.chan c).st = .stopped) → chanFrame s c = .ok (0, s.chan c)) ∧
    ((s.chan c).insv = false → chanFrame s c = .ok (0, s.chan c)) ∧
    (∀ I S, ((s.chan c).st = .running ∨ (s.chan c).st = .waiting) → (s.chan c).insv = true →
      (s.chan c).gate = false → readInstrument s (s.chan c).ins.toNat = .ok I →
      readSample s I.sample = .ok S → chanFrame s c = .ok (I.silence, s.chan c))

/-- The loop wrap (45_synth_mixer.md R188, R190, R191): the cursor after the frame is the advanced one, or, at or
beyond the loop's end, carried into the region modulo its length with `looped` set; it then lies below the loop's end.
The amplitude there, wherever it lies in the memory, is scaled by the effective volume; the channel goes on, and
nothing else of it is written. A cursor whose amplitude lies at or beyond the memory's end, one of 2^32 or more among
them, faults (R202, 93_implementation_defined.md U1; log 6). -/
def Obligations.LoopingFrameWrapsIntoTheLoop : Prop :=
  ∀ (s : State) (c : Fin 4) (I : Instrument) (S : Sample) (cur pos : Nat),
    (s.chan c).sounding = true → readInstrument s (s.chan c).ins.toNat = .ok I →
    readSample s I.sample = .ok S → S.loopLength ≠ 0 →
    cur = (s.chan c).curi.toNat * 65536 + (s.chan c).curf.toNat
      + cursorStep s.par (effPitch s.par (s.chan c)) S.rate I.basePitch →
    pos = (if cur < (S.loopStart + S.loopLength) * 65536 then cur
      else S.loopStart * 65536 + (cur - S.loopStart * 65536) % (S.loopLength * 65536)) →
    pos < (S.loopStart + S.loopLength) * 65536 ∧
    (S.data + pos / 65536 < s.par.memSize → ∃ y, chanFrame s c =
        .ok ((s.mem.read (S.data + pos / 65536)).toInt * effVol s.par (s.chan c), y) ∧
      y = { s.chan c with curi := y.curi, curf := y.curf, looped := y.looped } ∧
      y.curi.toNat = pos / 65536 ∧ y.curf.toNat = pos % 65536 ∧
      (y.looped = true ↔ (s.chan c).looped = true ∨ (S.loopStart + S.loopLength) * 65536 ≤ cur)) ∧
    (s.par.memSize ≤ S.data + pos / 65536 →
      chanFrame s c = .error (.memRead (S.data + pos / 65536) 1))

/-- A non-looping sample (45_synth_mixer.md R189 to R191): in the frame in which the advanced cursor is at or
beyond the end the channel stops with cause 3, the cursor at (length, 0), and contributes 0; before that the
cursor is the advanced one and the contribution is the amplitude there times the effective volume, or the frame
faults where the amplitude lies at or beyond the memory's end (R202, 93_implementation_defined.md U1). -/
def Obligations.NonLoopingFrameStopsExactlyAtTheEnd : Prop :=
  ∀ (s : State) (c : Fin 4) (I : Instrument) (S : Sample) (cur : Nat),
    (s.chan c).sounding = true → readInstrument s (s.chan c).ins.toNat = .ok I →
    readSample s I.sample = .ok S → S.loopLength = 0 →
    cur = (s.chan c).curi.toNat * 65536 + (s.chan c).curf.toNat
      + cursorStep s.par (effPitch s.par (s.chan c)) S.rate I.basePitch →
    (S.length * 65536 ≤ cur → chanFrame s c = .ok (0, { s.chan c with
      st := .stopped, stopc := .sampleEnd, curi := BitVec.ofNat 32 S.length, curf := 0 }) ∧
      S.length < 2 ^ 32 ∧ StopCause.sampleEnd.code = 3) ∧
    (cur < S.length * 65536 → S.data + cur / 65536 < s.par.memSize →
      ∃ y, chanFrame s c =
          .ok ((s.mem.read (S.data + cur / 65536)).toInt * effVol s.par (s.chan c), y) ∧
        y = { s.chan c with curi := y.curi, curf := y.curf } ∧
        y.curi.toNat = cur / 65536 ∧ y.curf.toNat = cur % 65536) ∧
    (cur < S.length * 65536 → s.par.memSize ≤ S.data + cur / 65536 →
      chanFrame s c = .error (.memRead (S.data + cur / 65536) 1))

/-- The step (45_synth_mixer.md R185): the exact quotient rounded down, where it fits 32 bits, else 2^32 - 1;
base pitch 0 is read as 1. -/
def Obligations.CursorStepIsTheExactQuotientSaturated : Prop :=
  ∀ (p : Config) (pe rate base : Nat),
    (cursorStep p pe rate base < 2 ^ 32 - 1 →
      cursorStep p pe rate base * (max base 1 * p.outputRate) ≤ pe * rate * 65536 ∧
      pe * rate * 65536 < (cursorStep p pe rate base + 1) * (max base 1 * p.outputRate)) ∧
    (2 ^ 32 - 1 ≤ cursorStep p pe rate base → cursorStep p pe rate base = 2 ^ 32 - 1 ∧
      (2 ^ 32 - 1) * (max base 1 * p.outputRate) ≤ pe * rate * 65536) ∧
    cursorStep p pe rate 0 = cursorStep p pe rate 1

/-- Every contribution of a channel lies in -8192 .. 8128 (45_synth_mixer.md R191, R195). -/
def Obligations.ContributionsStayInRange : Prop :=
  ∀ (s : State) (c : Fin 4) (k : Int) (y : Channel), chanFrame s c = .ok (k, y) → -8192 ≤ k ∧ k ≤ 8128

/-- R194, R196: a frame appends the exact sums of the four channels' contributions as signed words: in stereo left
(channels 0 and 3) then right (channels 1 and 2), in mono the sum of all four. It writes the channels' register
sets and `out`, nothing else. The ranges, by which no word is clipped or wrapped, are the spec's own inference
(45_synth_mixer.md section 4: "all inside the signed 16-bit range"). -/
def Obligations.FrameAppendsTheExactSums : Prop :=
  ∀ (s : State) (k : Fin 4 → Int) (y : Fin 4 → Channel), (∀ c, chanFrame s c = .ok (k c, y c)) →
    (∀ c, -8192 ≤ k c ∧ k c ≤ 8128) ∧
    (-16384 ≤ k 0 + k 3 ∧ k 0 + k 3 ≤ 16256 ∧ -16384 ≤ k 1 + k 2 ∧ k 1 + k 2 ≤ 16256) ∧
    ∃ ws, frame s = .next { s with ch := ⟨y 0, y 1, y 2, y 3⟩, out := s.out ++ ws } ∧
      ws.map BitVec.toInt =
        if s.mono = true then [(k 0 + k 3) + (k 1 + k 2)] else [k 0 + k 3, k 1 + k 2]

/-- `RENDER` (46_host_commands.md section 5, 45_synth_mixer.md section 5) is `n` frames one after the other, `n` all
32 bits of `arg[0]`, then `result <- 0`: it answers a next state exactly when they do, and that state, its words and its
channels' cursors, is what the last of them leaves. It appends `n` words in mono and `2n` in stereo, and writes nothing
but `out`, `result` and, of a channel, its cursor, `looped`, and at a sample end `st` and `stopc`; rendering no frames
writes `result` alone. -/
def Obligations.RenderIsItsFramesOneAfterTheOther : Prop :=
  (∀ s t : State, exec .render s = .next t ↔
    ∃ σ : Nat → State, σ 0 = s ∧ (∀ k < s.arg[0].toNat, frame (σ k) = .next (σ (k + 1))) ∧
      t = { σ s.arg[0].toNat with result := .ok }) ∧
  (∀ s : State, s.arg[0] = 0 → exec .render s = .next { s with result := .ok }) ∧
  ∀ s t : State, exec .render s = .next t →
    s.SameSetting t ∧ t.facc = s.facc ∧ t.arg = s.arg ∧ t.seqr = s.seqr ∧ t.result.code = 0 ∧
      (∃ ws, t.out = s.out ++ ws ∧ ws.length = (if s.mono = true then 1 else 2) * s.arg[0].toNat) ∧
      ∀ c, t.chan c = { s.chan c with
          curi := (t.chan c).curi, curf := (t.chan c).curf, looped := (t.chan c).looped,
          st := (t.chan c).st, stopc := (t.chan c).stopc } ∧
        (((t.chan c).st = (s.chan c).st ∧ (t.chan c).stopc = (s.chan c).stopc) ∨
          ((s.chan c).sounding = true ∧ (t.chan c).st = .stopped ∧ (t.chan c).stopc = .sampleEnd))

/-- When no frame changes a channel (silent cases), `RENDER` answers a next state in which only `out` and
`result` differ, and `out` has the same words appended in every frame: a constant level
(45_synth_mixer.md R182). -/
def Obligations.SilenceRendersAConstantLevel : Prop :=
  ∀ (s : State) (k0 k1 k2 k3 : Int), chanFrame s 0 = .ok (k0, s.chan 0) → chanFrame s 1 = .ok (k1, s.chan 1) →
    chanFrame s 2 = .ok (k2, s.chan 2) → chanFrame s 3 = .ok (k3, s.chan 3) →
    exec .render s = .next { s with
      out := s.out ++ (List.replicate s.arg[0].toNat
        (if s.mono = true then [BitVec.ofInt 16 (k0 + k3 + (k1 + k2))]
          else [BitVec.ofInt 16 (k0 + k3), BitVec.ofInt 16 (k1 + k2)])).flatten,
      result := .ok }

/-! ## The host commands -/

/-- Under the invariants and clauses (a), (b) and (e) of the input contract, `START`, `TICK`, `RENDER` and
`RUNTICK` answer a next state, which keeps both: no access leaves `M` and every slice ends
(70_reset_and_hazards.md sections 3 and 4). -/
def Obligations.CommandsCompleteOnContractData : Prop :=
  ∀ s : State, s.Inv → s.DataInside →
    (∃ t, exec .start s = .next t ∧ t.Inv ∧ t.DataInside) ∧
    (∃ t, exec .tick s = .next t ∧ t.Inv ∧ t.DataInside) ∧
    (∃ t, exec .render s = .next t ∧ t.Inv ∧ t.DataInside) ∧
    (∃ t, exec .runtick s = .next t ∧ t.Inv ∧ t.DataInside)

/-- `LOAD` of a data set whose every instrument names an existing sample (46_host_commands.md section 2): the
directory is latched from the arguments, every channel is reset, `M`, `cfg`, `arg` and `out` stay. -/
def Obligations.LoadAcceptsDataWithoutDanglingReferences : Prop :=
  ∀ s : State,
    (∀ i < s.arg[3].toNat % 65536, s.arg[2].toNat + 16 * i + 2 ≤ s.par.memSize ∧
      s.mem.value (s.arg[2].toNat + 16 * i) 2 < s.arg[1].toNat % 65536) →
    exec .load s = .next { s with
      loaded := true, result := .ok, facc := 0, sndId := 0, sndValid := false, lderrRec := 0, lderrRef := 0,
      dir := {
        smpBase := s.arg[0], smpCnt := BitVec.ofNat 16 s.arg[1].toNat,
        insBase := s.arg[2], insCnt := BitVec.ofNat 16 s.arg[3].toNat,
        seqBase := s.arg[4], seqCnt := BitVec.ofNat 16 s.arg[5].toNat,
        sndBase := s.arg[6], sndCnt := BitVec.ofNat 16 s.arg[7].toNat },
      ch := ⟨Channel.reset, Channel.reset, Channel.reset, Channel.reset⟩ }

/-- `LOAD` of a data set with a dangling reference reports the lowest instrument at fault and the identifier it
names, clears the directory and leaves nothing loaded (46_host_commands.md section 2). -/
def Obligations.LoadReportsTheLowestDanglingReference : Prop :=
  ∀ (s : State) (i : Nat), i < s.arg[3].toNat % 65536 →
    (∀ j ≤ i, s.arg[2].toNat + 16 * j + 2 ≤ s.par.memSize) →
    (∀ j < i, s.mem.value (s.arg[2].toNat + 16 * j) 2 < s.arg[1].toNat % 65536) →
    s.arg[1].toNat % 65536 ≤ s.mem.value (s.arg[2].toNat + 16 * i) 2 →
    exec .load s = .next { s with
      loaded := false, result := .loadError, facc := 0, sndId := 0, sndValid := false,
      lderrRec := BitVec.ofNat 16 i, lderrRef := BitVec.ofNat 16 (s.mem.value (s.arg[2].toNat + 16 * i) 2),
      dir := ⟨0, 0, 0, 0, 0, 0, 0, 0⟩,
      ch := ⟨Channel.reset, Channel.reset, Channel.reset, Channel.reset⟩ } ∧
    CmdResult.loadError.code = 1

/-- `START` of a sound whose sequences exist (46_host_commands.md section 3): every channel is reset, the
assigned ones are `RUNNING` at offset 0 of their sequence, unassigned ones stay `IDLE`. -/
def Obligations.StartAssignsTheSoundsSequences : Prop :=
  ∀ (s : State) (q : Fin 4 → Nat), s.arg[0].toNat % 65536 < s.dir.sndCnt.toNat →
    (∀ c : Fin 4, readSound s (s.arg[0].toNat % 65536) c.val = .ok (q c)) →
    (∀ c, q c = 0xFFFF ∨ q c < s.dir.seqCnt.toNat) →
    ∃ t, exec .start s = .next t ∧
      (∀ c, t.chan c = if q c = 0xFFFF then Channel.reset
        else { Channel.reset with seq := BitVec.ofNat 16 (q c), st := .running }) ∧
      t = { s with
        ch := t.ch, facc := 0, sndId := BitVec.ofNat 16 s.arg[0].toNat, sndValid := true, result := .ok }

/-- `START` of a sound, or with a sequence, that does not exist writes `result <- 2` and nothing else: a sound
that was playing goes on (46_host_commands.md section 3). -/
def Obligations.FailedStartWritesResultOnly : Prop :=
  ∀ (s : State) (q : Fin 4 → Nat),
    (s.dir.sndCnt.toNat ≤ s.arg[0].toNat % 65536 ∨
      ((∀ c : Fin 4, readSound s (s.arg[0].toNat % 65536) c.val = .ok (q c)) ∧
        ∃ c, q c ≠ 0xFFFF ∧ s.dir.seqCnt.toNat ≤ q c)) →
    exec .start s = .next { s with result := .notFound } ∧ CmdResult.notFound.code = 2

/-- R222: `STOP` stops every channel that is `RUNNING` or `WAITING` with cause 4 and writes nothing else but
`snd_valid` and `result`; afterwards every channel's frames are silent. -/
def Obligations.StopStopsTheActiveChannels : Prop :=
  ∀ s : State, ∃ t, exec .stop s = .next t ∧
    (∀ c, t.chan c =
      if (s.chan c).st = .running ∨ (s.chan c).st = .waiting then
        { s.chan c with st := .stopped, stopc := .hostStop }
      else s.chan c) ∧
    t = { s with ch := t.ch, sndValid := false, result := .ok } ∧ StopCause.hostStop.code = 4 ∧
    ∀ c, chanFrame t c = .ok (0, t.chan c)

/-- `RUNTICK` is `TICK`, then the accumulator, then `RENDER` of the frames that are due, whose number it writes
to `arg[0]` (46_host_commands.md section 7). -/
def Obligations.RuntickIsTickThenRenderOfTheFramesDue : Prop :=
  ∀ (s u t : State) (n : Nat), exec .tick s = .next u → n = (s.facc.toNat + s.par.fptQ16) / 65536 →
    exec .render { u with
      facc := BitVec.ofNat 16 ((s.facc.toNat + s.par.fptQ16) % 65536),
      arg := u.arg.set 0 (BitVec.ofNat 32 n) } = .next t →
    exec .runtick s = .next t

/-- The pacing of `RUNTICK` does not drift (46_host_commands.md section 7): after `N` of them in a row the words
appended are those of exactly `fdiv(facc + N * FPT_Q16, 65536)` frames and the accumulator holds the
remainder. -/
def Obligations.RuntickPacingDoesNotDrift : Prop :=
  ∀ (σ : Nat → State) (N : Nat), (∀ k < N, exec .runtick (σ k) = .next (σ (k + 1))) →
    (σ N).facc.toNat = ((σ 0).facc.toNat + N * (σ 0).par.fptQ16) % 65536 ∧
    (σ N).out.length = (σ 0).out.length
      + (if (σ 0).mono = true then 1 else 2) * (((σ 0).facc.toNat + N * (σ 0).par.fptQ16) / 65536)

/-! ## The register and memory ports -/

/-- R231: a write to `CMD` executes the command of its low byte; `CFG` takes its two low bits and bit 2 still reads
0, `ARGk` takes the word, a write to any other register is ignored; nothing else changes. -/
def Obligations.RegisterWritesReachCfgAndArgOnly : Prop :=
  ∀ (s : State) (n : Byte) (v : Word) (rest : List HostOp), s.seqr.active = false →
    s.host = .regWrite n v :: rest →
    (n.toNat = 0 → ∀ k : Command, encode k.toInstr = [v.extractLsb' 0 8] →
      step s = exec k.toInstr { s with host := rest }) ∧
    (n.toNat = 0 → (v.toNat % 256 = 0 ∨ 7 ≤ v.toNat % 256) →
      step s = .next { s with host := rest, result := .badCmd }) ∧
    (n.toNat ≠ 0 → ∃ t, step s = .next t ∧
      t = { s with host := rest, unkskip := t.unkskip, mono := t.mono, arg := t.arg } ∧
      (if n.toNat = 2 then t.unkskip = v.getLsbD 0 ∧ t.mono = v.getLsbD 1
        else t.unkskip = s.unkskip ∧ t.mono = s.mono) ∧
      (∀ k : Fin 8, t.arg[k] = if n.toNat = 8 + k.val then v else s.arg[k]) ∧
      (regRead t 2).toNat = (if t.unkskip = true then 1 else 0) + (if t.mono = true then 2 else 0))

/-- R41: the bits of `STATUS`, 0 after reset; a write to it is ignored. The other global registers and the reserved
numbers (10_state.md section 4) show their fields, with the codes of `result`. And a register read, of any number,
changes no state of the block: only the model's own fields, the host's list and the value read, differ (logs 1 and
9). -/
def Obligations.GlobalRegistersShowTheState : Prop :=
  (∀ (s : State) (i : Nat), (regRead s 3).getLsbD i =
    if i = 0 then s.loaded
    else if i = 1 then decide (∃ c, (s.chan c).st = .running ∨ (s.chan c).st = .waiting)
    else if i = 2 then s.sndValid
    else if h : 4 ≤ i ∧ i < 8 then decide ((s.chan ⟨i - 4, by omega⟩).err ≠ .none)
    else false) ∧
  regRead State.reset 3 = 0 ∧
  (∀ (s : State) (v : Word) (rest : List HostOp), s.seqr.active = false → s.host = .regWrite 3 v :: rest →
    step s = .next { s with host := rest }) ∧
  (∀ (s : State) (n : Byte), n.toNat ≠ 3 → n.toNat < 0x20 ∨ 0x60 ≤ n.toNat → (regRead s n).toNat =
    if n.toNat = 1 then s.result.code.toNat
    else if n.toNat = 2 then (if s.unkskip = true then 1 else 0) + (if s.mono = true then 2 else 0)
    else if n.toNat = 4 then s.lderrRec.toNat + s.lderrRef.toNat * 65536
    else if n.toNat = 5 then s.sndId.toNat + (if s.sndValid = true then 65536 else 0)
    else if n.toNat = 6 then s.facc.toNat
    else if h : 8 ≤ n.toNat ∧ n.toNat < 0x10 then (s.arg[n.toNat - 8]'(by omega)).toNat
    else if n.toNat = 0x10 then s.dir.smpBase.toNat
    else if n.toNat = 0x11 then s.dir.smpCnt.toNat
    else if n.toNat = 0x12 then s.dir.insBase.toNat
    else if n.toNat = 0x13 then s.dir.insCnt.toNat
    else if n.toNat = 0x14 then s.dir.seqBase.toNat
    else if n.toNat = 0x15 then s.dir.seqCnt.toNat
    else if n.toNat = 0x16 then s.dir.sndBase.toNat
    else if n.toNat = 0x17 then s.dir.sndCnt.toNat
    else 0) ∧
  (CmdResult.ok.code = 0 ∧ CmdResult.loadError.code = 1 ∧ CmdResult.notFound.code = 2 ∧
    CmdResult.badCmd.code = 7) ∧
  (∀ (s : State) (n : Byte) (rest : List HostOp), s.seqr.active = false → s.host = .regRead n :: rest →
    step s = .next { s with host := rest, rdata := regRead s n })

/-- R43, the channel register map: every field at its place, with the codes of `st`, `err` and `stopc` (10_state.md
section 3), the reserved numbers read 0; the values after reset; a write to any of them is ignored. -/
def Obligations.ChannelRegistersShowTheirFields : Prop :=
  (ChState.idle.code = 0 ∧ ChState.running.code = 1 ∧ ChState.waiting.code = 2 ∧ ChState.stopped.code = 3) ∧
  (ChErr.none.code = 0 ∧ ChErr.notFound.code = 2 ∧ ChErr.unknownOpcode.code = 3 ∧ ChErr.runawayLoop.code = 4) ∧
  (StopCause.notStopped.code = 0 ∧ StopCause.endExecuted.code = 1 ∧ StopCause.pastEnd.code = 2 ∧
    StopCause.sampleEnd.code = 3 ∧ StopCause.hostStop.code = 4 ∧ StopCause.errorEvent.code = 5) ∧
  ∀ (s : State) (c : Fin 4) (k : Fin 16) (n : Byte), n.toNat = 0x20 + 0x10 * c.val + k.val →
    let x := s.chan c
    regRead State.reset n = (if k.val = 3 then 1 else 0) ∧
    (∀ v rest, s.seqr.active = false → s.host = .regWrite n v :: rest → step s = .next { s with host := rest }) ∧
    (regRead s n).toNat =
      if k.val = 0 then
        x.st.code.toNat + (if x.gate = true then 4 else 0) + (if x.insv = true then 8 else 0)
          + (if x.looped = true then 16 else 0) + x.stopc.code.toNat * 256
      else if k.val = 1 then x.pc.toNat + x.seq.toNat * 65536
      else if k.val = 2 then x.wait.toNat + x.lc.toNat * 256
      else if k.val = 3 then x.pitch.toNat + x.vol.toNat * 65536 + x.ins.toNat * 16777216
      else if k.val = 4 then x.curi.toNat
      else if k.val = 5 then x.curf.toNat
      else if k.val = 6 then x.vdep.toNat + x.vspd.toNat * 256 + x.vph.toNat * 65536
      else if k.val = 7 then x.tdep.toNat + x.tspd.toNat * 256 + x.tph.toNat * 65536
      else if k.val = 8 then x.err.code.toNat + x.errb.toNat * 256 + x.errpc.toNat * 65536
      else 0

/-- The memory port (46_host_commands.md section 8). `MemWrite`: the byte is written and no other byte changes, the
data set is unloaded and every channel reset, everything else stays; beyond the memory it faults (U1).
`MemReadHost`: nothing of the block changes, the value stands in the model's own field `rdata` (log 9); that it too
faults beyond the memory, where the spec gives no result, is the model's inference (log 8). The memory is taken in its
canonical form. -/
def Obligations.MemoryPortWritesAndReadsOneByte : Prop :=
  ∀ (s : State) (a : Word) (v : Byte) (rest : List HostOp), s.seqr.active = false → s.mem.wf = true →
    (s.host = .memWrite a v :: rest → a.toNat < s.par.memSize → ∃ t, step s = .next t ∧
      t = { s with
        host := rest, mem := t.mem, loaded := false, sndValid := false, dir := ⟨0, 0, 0, 0, 0, 0, 0, 0⟩,
        ch := ⟨Channel.reset, Channel.reset, Channel.reset, Channel.reset⟩ } ∧
      t.mem.read a.toNat = v ∧ (∀ b, b ≠ a.toNat → t.mem.read b = s.mem.read b) ∧ t.mem.wf = true) ∧
    (s.host = .memReadHost a :: rest → a.toNat < s.par.memSize →
      step s = .next { s with host := rest, rdata := BitVec.ofNat 32 (s.mem.read a.toNat).toNat }) ∧
    (s.host = .memWrite a v :: rest → s.par.memSize ≤ a.toNat → step s = .fault (.memWrite a.toNat)) ∧
    (s.host = .memReadHost a :: rest → s.par.memSize ≤ a.toNat → step s = .fault (.memRead a.toNat 1))

/-- R62, `MemRead`: big-endian over consecutive bytes, no wrap and no alignment; a read that
reaches beyond the memory faults, naming its address (93_implementation_defined.md U1). -/
def Obligations.MemReadIsBigEndianAndBounded : Prop :=
  ∀ (s : State) (a : Nat),
    (a + 1 ≤ s.par.memSize → memRead s a 1 = .ok (s.mem.read a).toNat) ∧
    (a + 2 ≤ s.par.memSize → memRead s a 2 = .ok ((s.mem.read a).toNat * 256 + (s.mem.read (a + 1)).toNat)) ∧
    (a + 4 ≤ s.par.memSize → memRead s a 4 =
      .ok ((((s.mem.read a).toNat * 256 + (s.mem.read (a + 1)).toNat) * 256 + (s.mem.read (a + 2)).toNat) * 256
        + (s.mem.read (a + 3)).toNat)) ∧
    (∀ n, s.par.memSize < a + n → memRead s a n = .error (.memRead a n))

/-- The layouts of the records (20_memory.md sections 4 to 7), each field the bytes of `M` at its offset, most
significant first, and the code and sample bytes. Record `i` lies at its table's base plus `i` times 20, 16, 8 or 8. A
record is read exactly when every field read of it lies inside `M` (log 7); an amplitude is a signed byte. -/
def Obligations.RecordsAreTheBytesAtTheirOffsets : Prop :=
  ∀ s : State,
    let b : Nat → Nat := fun a => (s.mem.read a).toNat
    let h : Nat → Nat := fun a => b a * 256 + b (a + 1)
    let w : Nat → Nat := fun a => h a * 65536 + h (a + 2)
    (∀ (k A : Nat) (S : Sample), A = s.dir.smpBase.toNat + 20 * k →
      (readSample s k = .ok S ↔ A + 20 ≤ s.par.memSize ∧ S.data = w A ∧ S.length = w (A + 4) ∧
        S.loopStart = w (A + 8) ∧ S.loopLength = w (A + 12) ∧ S.rate = w (A + 16))) ∧
    (∀ (i A : Nat) (I : Instrument), A = s.dir.insBase.toNat + 16 * i →
      (readInstrument s i = .ok I ↔ A + 12 ≤ s.par.memSize ∧ I.sample = h A ∧ I.basePitch = h (A + 2) ∧
        I.defvol = b (A + 4) ∧ I.silence = (s.mem.read (A + 5)).toInt ∧ I.flags = s.mem.read (A + 6) ∧
        I.vibDepth = s.mem.read (A + 8) ∧ I.vibSpeed = s.mem.read (A + 9) ∧
        I.tremDepth = s.mem.read (A + 10) ∧ I.tremSpeed = s.mem.read (A + 11))) ∧
    (∀ (q A : Nat) (S : SeqRecord), A = s.dir.seqBase.toNat + 8 * q →
      (readSeq s q = .ok S ↔ A + 6 ≤ s.par.memSize ∧ S.code = w A ∧ S.len = h (A + 4))) ∧
    (∀ (i A q : Nat) (c : Fin 4), A = s.dir.sndBase.toNat + 8 * i →
      (readSound s i c = .ok q ↔ A + 2 * c.val + 2 ≤ s.par.memSize ∧ q = h (A + 2 * c.val))) ∧
    (∀ (a n : Nat) (bs : List Byte), 1 ≤ n →
      (memReadBytes s a n = .ok bs ↔ a + n ≤ s.par.memSize ∧ bs.length = n ∧
        ∀ k < n, bs[k]? = some (s.mem.read (a + k)))) ∧
    (∀ (S : Sample) (j : Nat) (v : Int),
      readAmp s S j = .ok v ↔ S.data + j < s.par.memSize ∧ v = (s.mem.read (S.data + j)).toInt)

/-! ## Rules of the whole machine -/

/-- `M` is read-only to the block (20_memory.md section 2): only a host memory write, or a reset, which leaves `M`
unspecified (log 5), changes a byte of it; a memory write unloads the data set and resets all four channels, also when
the byte it writes already stands there, and so does whatever changes `M`. Beside that, no step changes the instance's
parameters (log 3) and only a reset takes a word from `out` (10_state.md section 2). -/
def Obligations.OnlyTheHostWritesMemory : Prop :=
  ∀ s t : State, step s = .next t →
    ((∀ a v rest, s.host ≠ .memWrite a v :: rest) → (∀ rest, s.host ≠ .reset :: rest) →
      t.mem = s.mem ∧ ∀ a, t.mem.read a = s.mem.read a) ∧
    (∀ a v rest, s.seqr.active = false → s.host = .memWrite a v :: rest →
      t.loaded = false ∧ ∀ c, t.chan c = Channel.reset) ∧
    (t.mem ≠ s.mem → t.loaded = false ∧ ∀ c, t.chan c = Channel.reset) ∧
    t.par = s.par ∧
    ((∀ rest, s.host ≠ .reset :: rest) → ∃ ws, t.out = s.out ++ ws)

/-- A step that changes the state of a channel that is `IDLE` or `STOPPED` serves a `LOAD`, a `START`, a memory
write or a reset: nothing else leaves those states (40_sequencer.md R111, 60_exceptions.md R248). -/
def Obligations.StoppedIsTerminalUntilAChanReset : Prop :=
  ∀ (s t : State) (c : Fin 4), step s = .next t →
    ((s.chan c).st = .idle ∨ (s.chan c).st = .stopped) → (t.chan c).st ≠ (s.chan c).st →
    s.seqr.active = false ∧
      ((∃ v rest, s.host = .regWrite 0 v :: rest ∧ (v.toNat % 256 = 1 ∨ v.toNat % 256 = 2)) ∨
        (∃ a v rest, s.host = .memWrite a v :: rest) ∨ ∃ rest, s.host = .reset :: rest)
end

