-- ==== Sys2Proof/Laws/State.lean ====
section
/-! SUPPORT. The small lemmas of the record updates: one per field per update. -/

namespace Sys2Proof.Machine

/-! ## Channel updates -/

@[simp] theorem Channel.advance_st (x : Channel) (n : Nat) : (x.advance n).st = x.st := rfl
@[simp] theorem Channel.advance_seq (x : Channel) (n : Nat) : (x.advance n).seq = x.seq := rfl
@[simp] theorem Channel.advance_pc (x : Channel) (n : Nat) : (x.advance n).pc = x.pc + BitVec.ofNat 16 n := rfl
@[simp] theorem Channel.advance_wait (x : Channel) (n : Nat) : (x.advance n).wait = x.wait := rfl
@[simp] theorem Channel.advance_lc (x : Channel) (n : Nat) : (x.advance n).lc = x.lc := rfl
@[simp] theorem Channel.advance_ins (x : Channel) (n : Nat) : (x.advance n).ins = x.ins := rfl
@[simp] theorem Channel.advance_insv (x : Channel) (n : Nat) : (x.advance n).insv = x.insv := rfl
@[simp] theorem Channel.advance_pitch (x : Channel) (n : Nat) : (x.advance n).pitch = x.pitch := rfl
@[simp] theorem Channel.advance_vol (x : Channel) (n : Nat) : (x.advance n).vol = x.vol := rfl
@[simp] theorem Channel.advance_gate (x : Channel) (n : Nat) : (x.advance n).gate = x.gate := rfl
@[simp] theorem Channel.advance_curi (x : Channel) (n : Nat) : (x.advance n).curi = x.curi := rfl
@[simp] theorem Channel.advance_curf (x : Channel) (n : Nat) : (x.advance n).curf = x.curf := rfl
@[simp] theorem Channel.advance_looped (x : Channel) (n : Nat) : (x.advance n).looped = x.looped := rfl
@[simp] theorem Channel.advance_vdep (x : Channel) (n : Nat) : (x.advance n).vdep = x.vdep := rfl
@[simp] theorem Channel.advance_vspd (x : Channel) (n : Nat) : (x.advance n).vspd = x.vspd := rfl
@[simp] theorem Channel.advance_vph (x : Channel) (n : Nat) : (x.advance n).vph = x.vph := rfl
@[simp] theorem Channel.advance_tdep (x : Channel) (n : Nat) : (x.advance n).tdep = x.tdep := rfl
@[simp] theorem Channel.advance_tspd (x : Channel) (n : Nat) : (x.advance n).tspd = x.tspd := rfl
@[simp] theorem Channel.advance_tph (x : Channel) (n : Nat) : (x.advance n).tph = x.tph := rfl
@[simp] theorem Channel.advance_err (x : Channel) (n : Nat) : (x.advance n).err = x.err := rfl
@[simp] theorem Channel.advance_errpc (x : Channel) (n : Nat) : (x.advance n).errpc = x.errpc := rfl
@[simp] theorem Channel.advance_errb (x : Channel) (n : Nat) : (x.advance n).errb = x.errb := rfl
@[simp] theorem Channel.advance_stopc (x : Channel) (n : Nat) : (x.advance n).stopc = x.stopc := rfl

@[simp] theorem Channel.halt_st (x : Channel) (why : StopCause) : (x.halt why).st = .stopped := rfl
@[simp] theorem Channel.halt_seq (x : Channel) (why : StopCause) : (x.halt why).seq = x.seq := rfl
@[simp] theorem Channel.halt_pc (x : Channel) (why : StopCause) : (x.halt why).pc = x.pc := rfl
@[simp] theorem Channel.halt_wait (x : Channel) (why : StopCause) : (x.halt why).wait = x.wait := rfl
@[simp] theorem Channel.halt_lc (x : Channel) (why : StopCause) : (x.halt why).lc = x.lc := rfl
@[simp] theorem Channel.halt_ins (x : Channel) (why : StopCause) : (x.halt why).ins = x.ins := rfl
@[simp] theorem Channel.halt_insv (x : Channel) (why : StopCause) : (x.halt why).insv = x.insv := rfl
@[simp] theorem Channel.halt_pitch (x : Channel) (why : StopCause) : (x.halt why).pitch = x.pitch := rfl
@[simp] theorem Channel.halt_vol (x : Channel) (why : StopCause) : (x.halt why).vol = x.vol := rfl
@[simp] theorem Channel.halt_gate (x : Channel) (why : StopCause) : (x.halt why).gate = x.gate := rfl
@[simp] theorem Channel.halt_curi (x : Channel) (why : StopCause) : (x.halt why).curi = x.curi := rfl
@[simp] theorem Channel.halt_curf (x : Channel) (why : StopCause) : (x.halt why).curf = x.curf := rfl
@[simp] theorem Channel.halt_looped (x : Channel) (why : StopCause) : (x.halt why).looped = x.looped := rfl
@[simp] theorem Channel.halt_vdep (x : Channel) (why : StopCause) : (x.halt why).vdep = x.vdep := rfl
@[simp] theorem Channel.halt_vspd (x : Channel) (why : StopCause) : (x.halt why).vspd = x.vspd := rfl
@[simp] theorem Channel.halt_vph (x : Channel) (why : StopCause) : (x.halt why).vph = x.vph := rfl
@[simp] theorem Channel.halt_tdep (x : Channel) (why : StopCause) : (x.halt why).tdep = x.tdep := rfl
@[simp] theorem Channel.halt_tspd (x : Channel) (why : StopCause) : (x.halt why).tspd = x.tspd := rfl
@[simp] theorem Channel.halt_tph (x : Channel) (why : StopCause) : (x.halt why).tph = x.tph := rfl
@[simp] theorem Channel.halt_err (x : Channel) (why : StopCause) : (x.halt why).err = x.err := rfl
@[simp] theorem Channel.halt_errpc (x : Channel) (why : StopCause) : (x.halt why).errpc = x.errpc := rfl
@[simp] theorem Channel.halt_errb (x : Channel) (why : StopCause) : (x.halt why).errb = x.errb := rfl
@[simp] theorem Channel.halt_stopc (x : Channel) (why : StopCause) : (x.halt why).stopc = why := rfl

@[simp] theorem Channel.latch_st (x : Channel) (e : ChErr) (info : Byte) : (x.latch e info).st = x.st := rfl
@[simp] theorem Channel.latch_seq (x : Channel) (e : ChErr) (info : Byte) : (x.latch e info).seq = x.seq := rfl
@[simp] theorem Channel.latch_pc (x : Channel) (e : ChErr) (info : Byte) : (x.latch e info).pc = x.pc := rfl
@[simp] theorem Channel.latch_wait (x : Channel) (e : ChErr) (info : Byte) : (x.latch e info).wait = x.wait := rfl
@[simp] theorem Channel.latch_lc (x : Channel) (e : ChErr) (info : Byte) : (x.latch e info).lc = x.lc := rfl
@[simp] theorem Channel.latch_ins (x : Channel) (e : ChErr) (info : Byte) : (x.latch e info).ins = x.ins := rfl
@[simp] theorem Channel.latch_insv (x : Channel) (e : ChErr) (info : Byte) : (x.latch e info).insv = x.insv := rfl
@[simp] theorem Channel.latch_pitch (x : Channel) (e : ChErr) (info : Byte) : (x.latch e info).pitch = x.pitch := rfl
@[simp] theorem Channel.latch_vol (x : Channel) (e : ChErr) (info : Byte) : (x.latch e info).vol = x.vol := rfl
@[simp] theorem Channel.latch_gate (x : Channel) (e : ChErr) (info : Byte) : (x.latch e info).gate = x.gate := rfl
@[simp] theorem Channel.latch_curi (x : Channel) (e : ChErr) (info : Byte) : (x.latch e info).curi = x.curi := rfl
@[simp] theorem Channel.latch_curf (x : Channel) (e : ChErr) (info : Byte) : (x.latch e info).curf = x.curf := rfl
@[simp] theorem Channel.latch_looped (x : Channel) (e : ChErr) (info : Byte) : (x.latch e info).looped = x.looped := rfl
@[simp] theorem Channel.latch_vdep (x : Channel) (e : ChErr) (info : Byte) : (x.latch e info).vdep = x.vdep := rfl
@[simp] theorem Channel.latch_vspd (x : Channel) (e : ChErr) (info : Byte) : (x.latch e info).vspd = x.vspd := rfl
@[simp] theorem Channel.latch_vph (x : Channel) (e : ChErr) (info : Byte) : (x.latch e info).vph = x.vph := rfl
@[simp] theorem Channel.latch_tdep (x : Channel) (e : ChErr) (info : Byte) : (x.latch e info).tdep = x.tdep := rfl
@[simp] theorem Channel.latch_tspd (x : Channel) (e : ChErr) (info : Byte) : (x.latch e info).tspd = x.tspd := rfl
@[simp] theorem Channel.latch_tph (x : Channel) (e : ChErr) (info : Byte) : (x.latch e info).tph = x.tph := rfl
@[simp] theorem Channel.latch_err (x : Channel) (e : ChErr) (info : Byte) : (x.latch e info).err = e := rfl
@[simp] theorem Channel.latch_errpc (x : Channel) (e : ChErr) (info : Byte) : (x.latch e info).errpc = x.pc := rfl
@[simp] theorem Channel.latch_errb (x : Channel) (e : ChErr) (info : Byte) : (x.latch e info).errb = info := rfl
@[simp] theorem Channel.latch_stopc (x : Channel) (e : ChErr) (info : Byte) : (x.latch e info).stopc = x.stopc := rfl

@[simp] theorem Channel.raise_st (x : Channel) (e : ChErr) (info : Byte) : (x.raise e info).st = .stopped := rfl
@[simp] theorem Channel.raise_seq (x : Channel) (e : ChErr) (info : Byte) : (x.raise e info).seq = x.seq := rfl
@[simp] theorem Channel.raise_pc (x : Channel) (e : ChErr) (info : Byte) : (x.raise e info).pc = x.pc := rfl
@[simp] theorem Channel.raise_wait (x : Channel) (e : ChErr) (info : Byte) : (x.raise e info).wait = x.wait := rfl
@[simp] theorem Channel.raise_lc (x : Channel) (e : ChErr) (info : Byte) : (x.raise e info).lc = x.lc := rfl
@[simp] theorem Channel.raise_ins (x : Channel) (e : ChErr) (info : Byte) : (x.raise e info).ins = x.ins := rfl
@[simp] theorem Channel.raise_insv (x : Channel) (e : ChErr) (info : Byte) : (x.raise e info).insv = x.insv := rfl
@[simp] theorem Channel.raise_pitch (x : Channel) (e : ChErr) (info : Byte) : (x.raise e info).pitch = x.pitch := rfl
@[simp] theorem Channel.raise_vol (x : Channel) (e : ChErr) (info : Byte) : (x.raise e info).vol = x.vol := rfl
@[simp] theorem Channel.raise_gate (x : Channel) (e : ChErr) (info : Byte) : (x.raise e info).gate = x.gate := rfl
@[simp] theorem Channel.raise_curi (x : Channel) (e : ChErr) (info : Byte) : (x.raise e info).curi = x.curi := rfl
@[simp] theorem Channel.raise_curf (x : Channel) (e : ChErr) (info : Byte) : (x.raise e info).curf = x.curf := rfl
@[simp] theorem Channel.raise_looped (x : Channel) (e : ChErr) (info : Byte) : (x.raise e info).looped = x.looped := rfl
@[simp] theorem Channel.raise_vdep (x : Channel) (e : ChErr) (info : Byte) : (x.raise e info).vdep = x.vdep := rfl
@[simp] theorem Channel.raise_vspd (x : Channel) (e : ChErr) (info : Byte) : (x.raise e info).vspd = x.vspd := rfl
@[simp] theorem Channel.raise_vph (x : Channel) (e : ChErr) (info : Byte) : (x.raise e info).vph = x.vph := rfl
@[simp] theorem Channel.raise_tdep (x : Channel) (e : ChErr) (info : Byte) : (x.raise e info).tdep = x.tdep := rfl
@[simp] theorem Channel.raise_tspd (x : Channel) (e : ChErr) (info : Byte) : (x.raise e info).tspd = x.tspd := rfl
@[simp] theorem Channel.raise_tph (x : Channel) (e : ChErr) (info : Byte) : (x.raise e info).tph = x.tph := rfl
@[simp] theorem Channel.raise_err (x : Channel) (e : ChErr) (info : Byte) : (x.raise e info).err = e := rfl
@[simp] theorem Channel.raise_errpc (x : Channel) (e : ChErr) (info : Byte) : (x.raise e info).errpc = x.pc := rfl
@[simp] theorem Channel.raise_errb (x : Channel) (e : ChErr) (info : Byte) : (x.raise e info).errb = info := rfl
@[simp] theorem Channel.raise_stopc (x : Channel) (e : ChErr) (info : Byte) : (x.raise e info).stopc = .errorEvent := rfl

@[simp] theorem Channel.rewind_st (x : Channel) : (x.rewind).st = x.st := rfl
@[simp] theorem Channel.rewind_seq (x : Channel) : (x.rewind).seq = x.seq := rfl
@[simp] theorem Channel.rewind_pc (x : Channel) : (x.rewind).pc = x.pc := rfl
@[simp] theorem Channel.rewind_wait (x : Channel) : (x.rewind).wait = x.wait := rfl
@[simp] theorem Channel.rewind_lc (x : Channel) : (x.rewind).lc = x.lc := rfl
@[simp] theorem Channel.rewind_ins (x : Channel) : (x.rewind).ins = x.ins := rfl
@[simp] theorem Channel.rewind_insv (x : Channel) : (x.rewind).insv = x.insv := rfl
@[simp] theorem Channel.rewind_pitch (x : Channel) : (x.rewind).pitch = x.pitch := rfl
@[simp] theorem Channel.rewind_vol (x : Channel) : (x.rewind).vol = x.vol := rfl
@[simp] theorem Channel.rewind_gate (x : Channel) : (x.rewind).gate = x.gate := rfl
@[simp] theorem Channel.rewind_curi (x : Channel) : (x.rewind).curi = 0 := rfl
@[simp] theorem Channel.rewind_curf (x : Channel) : (x.rewind).curf = 0 := rfl
@[simp] theorem Channel.rewind_looped (x : Channel) : (x.rewind).looped = false := rfl
@[simp] theorem Channel.rewind_vdep (x : Channel) : (x.rewind).vdep = x.vdep := rfl
@[simp] theorem Channel.rewind_vspd (x : Channel) : (x.rewind).vspd = x.vspd := rfl
@[simp] theorem Channel.rewind_vph (x : Channel) : (x.rewind).vph = x.vph := rfl
@[simp] theorem Channel.rewind_tdep (x : Channel) : (x.rewind).tdep = x.tdep := rfl
@[simp] theorem Channel.rewind_tspd (x : Channel) : (x.rewind).tspd = x.tspd := rfl
@[simp] theorem Channel.rewind_tph (x : Channel) : (x.rewind).tph = x.tph := rfl
@[simp] theorem Channel.rewind_err (x : Channel) : (x.rewind).err = x.err := rfl
@[simp] theorem Channel.rewind_errpc (x : Channel) : (x.rewind).errpc = x.errpc := rfl
@[simp] theorem Channel.rewind_errb (x : Channel) : (x.rewind).errb = x.errb := rfl
@[simp] theorem Channel.rewind_stopc (x : Channel) : (x.rewind).stopc = x.stopc := rfl

@[simp] theorem Channel.openGate_st (x : Channel) : (x.openGate).st = x.st := rfl
@[simp] theorem Channel.openGate_seq (x : Channel) : (x.openGate).seq = x.seq := rfl
@[simp] theorem Channel.openGate_pc (x : Channel) : (x.openGate).pc = x.pc := rfl
@[simp] theorem Channel.openGate_wait (x : Channel) : (x.openGate).wait = x.wait := rfl
@[simp] theorem Channel.openGate_lc (x : Channel) : (x.openGate).lc = x.lc := rfl
@[simp] theorem Channel.openGate_ins (x : Channel) : (x.openGate).ins = x.ins := rfl
@[simp] theorem Channel.openGate_insv (x : Channel) : (x.openGate).insv = x.insv := rfl
@[simp] theorem Channel.openGate_pitch (x : Channel) : (x.openGate).pitch = x.pitch := rfl
@[simp] theorem Channel.openGate_vol (x : Channel) : (x.openGate).vol = x.vol := rfl
@[simp] theorem Channel.openGate_gate (x : Channel) : (x.openGate).gate = true := rfl
@[simp] theorem Channel.openGate_curi (x : Channel) : (x.openGate).curi = x.curi := rfl
@[simp] theorem Channel.openGate_curf (x : Channel) : (x.openGate).curf = x.curf := rfl
@[simp] theorem Channel.openGate_looped (x : Channel) : (x.openGate).looped = x.looped := rfl
@[simp] theorem Channel.openGate_vdep (x : Channel) : (x.openGate).vdep = x.vdep := rfl
@[simp] theorem Channel.openGate_vspd (x : Channel) : (x.openGate).vspd = x.vspd := rfl
@[simp] theorem Channel.openGate_vph (x : Channel) : (x.openGate).vph = x.vph := rfl
@[simp] theorem Channel.openGate_tdep (x : Channel) : (x.openGate).tdep = x.tdep := rfl
@[simp] theorem Channel.openGate_tspd (x : Channel) : (x.openGate).tspd = x.tspd := rfl
@[simp] theorem Channel.openGate_tph (x : Channel) : (x.openGate).tph = x.tph := rfl
@[simp] theorem Channel.openGate_err (x : Channel) : (x.openGate).err = x.err := rfl
@[simp] theorem Channel.openGate_errpc (x : Channel) : (x.openGate).errpc = x.errpc := rfl
@[simp] theorem Channel.openGate_errb (x : Channel) : (x.openGate).errb = x.errb := rfl
@[simp] theorem Channel.openGate_stopc (x : Channel) : (x.openGate).stopc = x.stopc := rfl

@[simp] theorem Channel.setVib_st (x : Channel) (a b : Byte) : (x.setVib a b).st = x.st := rfl
@[simp] theorem Channel.setVib_seq (x : Channel) (a b : Byte) : (x.setVib a b).seq = x.seq := rfl
@[simp] theorem Channel.setVib_pc (x : Channel) (a b : Byte) : (x.setVib a b).pc = x.pc := rfl
@[simp] theorem Channel.setVib_wait (x : Channel) (a b : Byte) : (x.setVib a b).wait = x.wait := rfl
@[simp] theorem Channel.setVib_lc (x : Channel) (a b : Byte) : (x.setVib a b).lc = x.lc := rfl
@[simp] theorem Channel.setVib_ins (x : Channel) (a b : Byte) : (x.setVib a b).ins = x.ins := rfl
@[simp] theorem Channel.setVib_insv (x : Channel) (a b : Byte) : (x.setVib a b).insv = x.insv := rfl
@[simp] theorem Channel.setVib_pitch (x : Channel) (a b : Byte) : (x.setVib a b).pitch = x.pitch := rfl
@[simp] theorem Channel.setVib_vol (x : Channel) (a b : Byte) : (x.setVib a b).vol = x.vol := rfl
@[simp] theorem Channel.setVib_gate (x : Channel) (a b : Byte) : (x.setVib a b).gate = x.gate := rfl
@[simp] theorem Channel.setVib_curi (x : Channel) (a b : Byte) : (x.setVib a b).curi = x.curi := rfl
@[simp] theorem Channel.setVib_curf (x : Channel) (a b : Byte) : (x.setVib a b).curf = x.curf := rfl
@[simp] theorem Channel.setVib_looped (x : Channel) (a b : Byte) : (x.setVib a b).looped = x.looped := rfl
@[simp] theorem Channel.setVib_vdep (x : Channel) (a b : Byte) : (x.setVib a b).vdep = a := rfl
@[simp] theorem Channel.setVib_vspd (x : Channel) (a b : Byte) : (x.setVib a b).vspd = b := rfl
@[simp] theorem Channel.setVib_vph (x : Channel) (a b : Byte) : (x.setVib a b).vph = 0 := rfl
@[simp] theorem Channel.setVib_tdep (x : Channel) (a b : Byte) : (x.setVib a b).tdep = x.tdep := rfl
@[simp] theorem Channel.setVib_tspd (x : Channel) (a b : Byte) : (x.setVib a b).tspd = x.tspd := rfl
@[simp] theorem Channel.setVib_tph (x : Channel) (a b : Byte) : (x.setVib a b).tph = x.tph := rfl
@[simp] theorem Channel.setVib_err (x : Channel) (a b : Byte) : (x.setVib a b).err = x.err := rfl
@[simp] theorem Channel.setVib_errpc (x : Channel) (a b : Byte) : (x.setVib a b).errpc = x.errpc := rfl
@[simp] theorem Channel.setVib_errb (x : Channel) (a b : Byte) : (x.setVib a b).errb = x.errb := rfl
@[simp] theorem Channel.setVib_stopc (x : Channel) (a b : Byte) : (x.setVib a b).stopc = x.stopc := rfl

@[simp] theorem Channel.setTrem_st (x : Channel) (a b : Byte) : (x.setTrem a b).st = x.st := rfl
@[simp] theorem Channel.setTrem_seq (x : Channel) (a b : Byte) : (x.setTrem a b).seq = x.seq := rfl
@[simp] theorem Channel.setTrem_pc (x : Channel) (a b : Byte) : (x.setTrem a b).pc = x.pc := rfl
@[simp] theorem Channel.setTrem_wait (x : Channel) (a b : Byte) : (x.setTrem a b).wait = x.wait := rfl
@[simp] theorem Channel.setTrem_lc (x : Channel) (a b : Byte) : (x.setTrem a b).lc = x.lc := rfl
@[simp] theorem Channel.setTrem_ins (x : Channel) (a b : Byte) : (x.setTrem a b).ins = x.ins := rfl
@[simp] theorem Channel.setTrem_insv (x : Channel) (a b : Byte) : (x.setTrem a b).insv = x.insv := rfl
@[simp] theorem Channel.setTrem_pitch (x : Channel) (a b : Byte) : (x.setTrem a b).pitch = x.pitch := rfl
@[simp] theorem Channel.setTrem_vol (x : Channel) (a b : Byte) : (x.setTrem a b).vol = x.vol := rfl
@[simp] theorem Channel.setTrem_gate (x : Channel) (a b : Byte) : (x.setTrem a b).gate = x.gate := rfl
@[simp] theorem Channel.setTrem_curi (x : Channel) (a b : Byte) : (x.setTrem a b).curi = x.curi := rfl
@[simp] theorem Channel.setTrem_curf (x : Channel) (a b : Byte) : (x.setTrem a b).curf = x.curf := rfl
@[simp] theorem Channel.setTrem_looped (x : Channel) (a b : Byte) : (x.setTrem a b).looped = x.looped := rfl
@[simp] theorem Channel.setTrem_vdep (x : Channel) (a b : Byte) : (x.setTrem a b).vdep = x.vdep := rfl
@[simp] theorem Channel.setTrem_vspd (x : Channel) (a b : Byte) : (x.setTrem a b).vspd = x.vspd := rfl
@[simp] theorem Channel.setTrem_vph (x : Channel) (a b : Byte) : (x.setTrem a b).vph = x.vph := rfl
@[simp] theorem Channel.setTrem_tdep (x : Channel) (a b : Byte) : (x.setTrem a b).tdep = a := rfl
@[simp] theorem Channel.setTrem_tspd (x : Channel) (a b : Byte) : (x.setTrem a b).tspd = b := rfl
@[simp] theorem Channel.setTrem_tph (x : Channel) (a b : Byte) : (x.setTrem a b).tph = 0 := rfl
@[simp] theorem Channel.setTrem_err (x : Channel) (a b : Byte) : (x.setTrem a b).err = x.err := rfl
@[simp] theorem Channel.setTrem_errpc (x : Channel) (a b : Byte) : (x.setTrem a b).errpc = x.errpc := rfl
@[simp] theorem Channel.setTrem_errb (x : Channel) (a b : Byte) : (x.setTrem a b).errb = x.errb := rfl
@[simp] theorem Channel.setTrem_stopc (x : Channel) (a b : Byte) : (x.setTrem a b).stopc = x.stopc := rfl

@[simp] theorem Channel.advancePhases_st (x : Channel) : (x.advancePhases).st = x.st := rfl
@[simp] theorem Channel.advancePhases_seq (x : Channel) : (x.advancePhases).seq = x.seq := rfl
@[simp] theorem Channel.advancePhases_pc (x : Channel) : (x.advancePhases).pc = x.pc := rfl
@[simp] theorem Channel.advancePhases_wait (x : Channel) : (x.advancePhases).wait = x.wait := rfl
@[simp] theorem Channel.advancePhases_lc (x : Channel) : (x.advancePhases).lc = x.lc := rfl
@[simp] theorem Channel.advancePhases_ins (x : Channel) : (x.advancePhases).ins = x.ins := rfl
@[simp] theorem Channel.advancePhases_insv (x : Channel) : (x.advancePhases).insv = x.insv := rfl
@[simp] theorem Channel.advancePhases_pitch (x : Channel) : (x.advancePhases).pitch = x.pitch := rfl
@[simp] theorem Channel.advancePhases_vol (x : Channel) : (x.advancePhases).vol = x.vol := rfl
@[simp] theorem Channel.advancePhases_gate (x : Channel) : (x.advancePhases).gate = x.gate := rfl
@[simp] theorem Channel.advancePhases_curi (x : Channel) : (x.advancePhases).curi = x.curi := rfl
@[simp] theorem Channel.advancePhases_curf (x : Channel) : (x.advancePhases).curf = x.curf := rfl
@[simp] theorem Channel.advancePhases_looped (x : Channel) : (x.advancePhases).looped = x.looped := rfl
@[simp] theorem Channel.advancePhases_vdep (x : Channel) : (x.advancePhases).vdep = x.vdep := rfl
@[simp] theorem Channel.advancePhases_vspd (x : Channel) : (x.advancePhases).vspd = x.vspd := rfl
@[simp] theorem Channel.advancePhases_vph (x : Channel) : (x.advancePhases).vph = x.vph + x.vspd := rfl
@[simp] theorem Channel.advancePhases_tdep (x : Channel) : (x.advancePhases).tdep = x.tdep := rfl
@[simp] theorem Channel.advancePhases_tspd (x : Channel) : (x.advancePhases).tspd = x.tspd := rfl
@[simp] theorem Channel.advancePhases_tph (x : Channel) : (x.advancePhases).tph = x.tph + x.tspd := rfl
@[simp] theorem Channel.advancePhases_err (x : Channel) : (x.advancePhases).err = x.err := rfl
@[simp] theorem Channel.advancePhases_errpc (x : Channel) : (x.advancePhases).errpc = x.errpc := rfl
@[simp] theorem Channel.advancePhases_errb (x : Channel) : (x.advancePhases).errb = x.errb := rfl
@[simp] theorem Channel.advancePhases_stopc (x : Channel) : (x.advancePhases).stopc = x.stopc := rfl

@[simp] theorem Channel.setCursor_st (x : Channel) (n : Nat) : (x.setCursor n).st = x.st := rfl
@[simp] theorem Channel.setCursor_seq (x : Channel) (n : Nat) : (x.setCursor n).seq = x.seq := rfl
@[simp] theorem Channel.setCursor_pc (x : Channel) (n : Nat) : (x.setCursor n).pc = x.pc := rfl
@[simp] theorem Channel.setCursor_wait (x : Channel) (n : Nat) : (x.setCursor n).wait = x.wait := rfl
@[simp] theorem Channel.setCursor_lc (x : Channel) (n : Nat) : (x.setCursor n).lc = x.lc := rfl
@[simp] theorem Channel.setCursor_ins (x : Channel) (n : Nat) : (x.setCursor n).ins = x.ins := rfl
@[simp] theorem Channel.setCursor_insv (x : Channel) (n : Nat) : (x.setCursor n).insv = x.insv := rfl
@[simp] theorem Channel.setCursor_pitch (x : Channel) (n : Nat) : (x.setCursor n).pitch = x.pitch := rfl
@[simp] theorem Channel.setCursor_vol (x : Channel) (n : Nat) : (x.setCursor n).vol = x.vol := rfl
@[simp] theorem Channel.setCursor_gate (x : Channel) (n : Nat) : (x.setCursor n).gate = x.gate := rfl
@[simp] theorem Channel.setCursor_curi (x : Channel) (n : Nat) : (x.setCursor n).curi = BitVec.ofNat 32 (n / 65536) := rfl
@[simp] theorem Channel.setCursor_curf (x : Channel) (n : Nat) : (x.setCursor n).curf = BitVec.ofNat 16 (n % 65536) := rfl
@[simp] theorem Channel.setCursor_looped (x : Channel) (n : Nat) : (x.setCursor n).looped = x.looped := rfl
@[simp] theorem Channel.setCursor_vdep (x : Channel) (n : Nat) : (x.setCursor n).vdep = x.vdep := rfl
@[simp] theorem Channel.setCursor_vspd (x : Channel) (n : Nat) : (x.setCursor n).vspd = x.vspd := rfl
@[simp] theorem Channel.setCursor_vph (x : Channel) (n : Nat) : (x.setCursor n).vph = x.vph := rfl
@[simp] theorem Channel.setCursor_tdep (x : Channel) (n : Nat) : (x.setCursor n).tdep = x.tdep := rfl
@[simp] theorem Channel.setCursor_tspd (x : Channel) (n : Nat) : (x.setCursor n).tspd = x.tspd := rfl
@[simp] theorem Channel.setCursor_tph (x : Channel) (n : Nat) : (x.setCursor n).tph = x.tph := rfl
@[simp] theorem Channel.setCursor_err (x : Channel) (n : Nat) : (x.setCursor n).err = x.err := rfl
@[simp] theorem Channel.setCursor_errpc (x : Channel) (n : Nat) : (x.setCursor n).errpc = x.errpc := rfl
@[simp] theorem Channel.setCursor_errb (x : Channel) (n : Nat) : (x.setCursor n).errb = x.errb := rfl
@[simp] theorem Channel.setCursor_stopc (x : Channel) (n : Nat) : (x.setCursor n).stopc = x.stopc := rfl

/-! ## Register sets of the four channels -/

@[simp] theorem State.chan_setChan_self (s : State) (c : Fin 4) (x : Channel) : (s.setChan c x).chan c = x := by
  match c with
  | 0 => rfl
  | 1 => rfl
  | 2 => rfl
  | 3 => rfl

theorem State.chan_setChan (s : State) (c d : Fin 4) (x : Channel) :
    (s.setChan c x).chan d = if d = c then x else s.chan d := by
  revert c d
  intro c d
  fin_cases c <;> fin_cases d <;> rfl

@[simp] theorem State.chan_setChan_ne (s : State) {c d : Fin 4} (h : d ≠ c) (x : Channel) :
    (s.setChan c x).chan d = s.chan d := by
  rw [State.chan_setChan, if_neg h]

@[simp] theorem State.setChan_chan (s : State) (c : Fin 4) : s.setChan c (s.chan c) = s := by
  fin_cases c <;> rfl

@[simp] theorem State.setChan_setChan (s : State) (c : Fin 4) (x y : Channel) :
    (s.setChan c x).setChan c y = s.setChan c y := by
  fin_cases c <;> rfl

@[simp] theorem Channels.get_reset (c : Fin 4) : Channels.reset.get c = Channel.reset := by
  fin_cases c <;> rfl

@[simp] theorem Channels.get_map (v : Channels) (f : Channel → Channel) (c : Fin 4) :
    (v.map f).get c = f (v.get c) := by
  fin_cases c <;> rfl

theorem Channels.ext_get {v w : Channels} (h : ∀ c, v.get c = w.get c) : v = w := by
  cases v; cases w
  have h0 := h 0; have h1 := h 1; have h2 := h 2; have h3 := h 3
  simp_all [Channels.get]

/-! ## State updates -/

@[simp] theorem State.setChan_par (s : State) (c : Fin 4) (x : Channel) : (s.setChan c x).par = s.par := rfl
@[simp] theorem State.setChan_mem (s : State) (c : Fin 4) (x : Channel) : (s.setChan c x).mem = s.mem := rfl
@[simp] theorem State.setChan_loaded (s : State) (c : Fin 4) (x : Channel) : (s.setChan c x).loaded = s.loaded := rfl
@[simp] theorem State.setChan_dir (s : State) (c : Fin 4) (x : Channel) : (s.setChan c x).dir = s.dir := rfl
@[simp] theorem State.setChan_unkskip (s : State) (c : Fin 4) (x : Channel) : (s.setChan c x).unkskip = s.unkskip := rfl
@[simp] theorem State.setChan_mono (s : State) (c : Fin 4) (x : Channel) : (s.setChan c x).mono = s.mono := rfl
@[simp] theorem State.setChan_result (s : State) (c : Fin 4) (x : Channel) : (s.setChan c x).result = s.result := rfl
@[simp] theorem State.setChan_lderrRec (s : State) (c : Fin 4) (x : Channel) : (s.setChan c x).lderrRec = s.lderrRec := rfl
@[simp] theorem State.setChan_lderrRef (s : State) (c : Fin 4) (x : Channel) : (s.setChan c x).lderrRef = s.lderrRef := rfl
@[simp] theorem State.setChan_sndId (s : State) (c : Fin 4) (x : Channel) : (s.setChan c x).sndId = s.sndId := rfl
@[simp] theorem State.setChan_sndValid (s : State) (c : Fin 4) (x : Channel) : (s.setChan c x).sndValid = s.sndValid := rfl
@[simp] theorem State.setChan_facc (s : State) (c : Fin 4) (x : Channel) : (s.setChan c x).facc = s.facc := rfl
@[simp] theorem State.setChan_arg (s : State) (c : Fin 4) (x : Channel) : (s.setChan c x).arg = s.arg := rfl
@[simp] theorem State.setChan_out (s : State) (c : Fin 4) (x : Channel) : (s.setChan c x).out = s.out := rfl
@[simp] theorem State.setChan_ch (s : State) (c : Fin 4) (x : Channel) : (s.setChan c x).ch = s.ch.set c x := rfl
@[simp] theorem State.setChan_seqr (s : State) (c : Fin 4) (x : Channel) : (s.setChan c x).seqr = s.seqr := rfl
@[simp] theorem State.setChan_host (s : State) (c : Fin 4) (x : Channel) : (s.setChan c x).host = s.host := rfl
@[simp] theorem State.setChan_rdata (s : State) (c : Fin 4) (x : Channel) : (s.setChan c x).rdata = s.rdata := rfl
@[simp] theorem State.setChan_epoch (s : State) (c : Fin 4) (x : Channel) : (s.setChan c x).epoch = s.epoch := rfl

@[simp] theorem State.setCur_par (s : State) (x : Channel) : (s.setCur x).par = s.par := rfl
@[simp] theorem State.setCur_mem (s : State) (x : Channel) : (s.setCur x).mem = s.mem := rfl
@[simp] theorem State.setCur_loaded (s : State) (x : Channel) : (s.setCur x).loaded = s.loaded := rfl
@[simp] theorem State.setCur_dir (s : State) (x : Channel) : (s.setCur x).dir = s.dir := rfl
@[simp] theorem State.setCur_unkskip (s : State) (x : Channel) : (s.setCur x).unkskip = s.unkskip := rfl
@[simp] theorem State.setCur_mono (s : State) (x : Channel) : (s.setCur x).mono = s.mono := rfl
@[simp] theorem State.setCur_result (s : State) (x : Channel) : (s.setCur x).result = s.result := rfl
@[simp] theorem State.setCur_lderrRec (s : State) (x : Channel) : (s.setCur x).lderrRec = s.lderrRec := rfl
@[simp] theorem State.setCur_lderrRef (s : State) (x : Channel) : (s.setCur x).lderrRef = s.lderrRef := rfl
@[simp] theorem State.setCur_sndId (s : State) (x : Channel) : (s.setCur x).sndId = s.sndId := rfl
@[simp] theorem State.setCur_sndValid (s : State) (x : Channel) : (s.setCur x).sndValid = s.sndValid := rfl
@[simp] theorem State.setCur_facc (s : State) (x : Channel) : (s.setCur x).facc = s.facc := rfl
@[simp] theorem State.setCur_arg (s : State) (x : Channel) : (s.setCur x).arg = s.arg := rfl
@[simp] theorem State.setCur_out (s : State) (x : Channel) : (s.setCur x).out = s.out := rfl
@[simp] theorem State.setCur_ch (s : State) (x : Channel) : (s.setCur x).ch = s.ch.set s.seqr.chan x := rfl
@[simp] theorem State.setCur_seqr (s : State) (x : Channel) : (s.setCur x).seqr = s.seqr := rfl
@[simp] theorem State.setCur_host (s : State) (x : Channel) : (s.setCur x).host = s.host := rfl
@[simp] theorem State.setCur_rdata (s : State) (x : Channel) : (s.setCur x).rdata = s.rdata := rfl
@[simp] theorem State.setCur_epoch (s : State) (x : Channel) : (s.setCur x).epoch = s.epoch := rfl

@[simp] theorem State.cur_setCur (s : State) (x : Channel) : (s.setCur x).cur = x :=
  State.chan_setChan_self s s.seqr.chan x

theorem State.chan_setCur (s : State) (d : Fin 4) (x : Channel) :
    (s.setCur x).chan d = if d = s.seqr.chan then x else s.chan d :=
  State.chan_setChan s s.seqr.chan d x

@[simp] theorem State.chan_seqr_chan (s : State) : s.chan s.seqr.chan = s.cur := rfl

@[simp] theorem State.resetChans_par (s : State) : (s.resetChans).par = s.par := rfl
@[simp] theorem State.resetChans_mem (s : State) : (s.resetChans).mem = s.mem := rfl
@[simp] theorem State.resetChans_loaded (s : State) : (s.resetChans).loaded = s.loaded := rfl
@[simp] theorem State.resetChans_dir (s : State) : (s.resetChans).dir = s.dir := rfl
@[simp] theorem State.resetChans_unkskip (s : State) : (s.resetChans).unkskip = s.unkskip := rfl
@[simp] theorem State.resetChans_mono (s : State) : (s.resetChans).mono = s.mono := rfl
@[simp] theorem State.resetChans_result (s : State) : (s.resetChans).result = s.result := rfl
@[simp] theorem State.resetChans_lderrRec (s : State) : (s.resetChans).lderrRec = s.lderrRec := rfl
@[simp] theorem State.resetChans_lderrRef (s : State) : (s.resetChans).lderrRef = s.lderrRef := rfl
@[simp] theorem State.resetChans_sndId (s : State) : (s.resetChans).sndId = s.sndId := rfl
@[simp] theorem State.resetChans_sndValid (s : State) : (s.resetChans).sndValid = s.sndValid := rfl
@[simp] theorem State.resetChans_facc (s : State) : (s.resetChans).facc = s.facc := rfl
@[simp] theorem State.resetChans_arg (s : State) : (s.resetChans).arg = s.arg := rfl
@[simp] theorem State.resetChans_out (s : State) : (s.resetChans).out = s.out := rfl
@[simp] theorem State.resetChans_ch (s : State) : (s.resetChans).ch = Channels.reset := rfl
@[simp] theorem State.resetChans_seqr (s : State) : (s.resetChans).seqr = s.seqr := rfl
@[simp] theorem State.resetChans_host (s : State) : (s.resetChans).host = s.host := rfl
@[simp] theorem State.resetChans_rdata (s : State) : (s.resetChans).rdata = s.rdata := rfl
@[simp] theorem State.resetChans_epoch (s : State) : (s.resetChans).epoch = s.epoch := rfl

@[simp] theorem State.chan_resetChans (s : State) (c : Fin 4) : s.resetChans.chan c = Channel.reset :=
  Channels.get_reset c

@[simp] theorem State.enterSlice_par (s : State) (c : Fin 4) : (s.enterSlice c).par = s.par := rfl
@[simp] theorem State.enterSlice_mem (s : State) (c : Fin 4) : (s.enterSlice c).mem = s.mem := rfl
@[simp] theorem State.enterSlice_loaded (s : State) (c : Fin 4) : (s.enterSlice c).loaded = s.loaded := rfl
@[simp] theorem State.enterSlice_dir (s : State) (c : Fin 4) : (s.enterSlice c).dir = s.dir := rfl
@[simp] theorem State.enterSlice_unkskip (s : State) (c : Fin 4) : (s.enterSlice c).unkskip = s.unkskip := rfl
@[simp] theorem State.enterSlice_mono (s : State) (c : Fin 4) : (s.enterSlice c).mono = s.mono := rfl
@[simp] theorem State.enterSlice_result (s : State) (c : Fin 4) : (s.enterSlice c).result = s.result := rfl
@[simp] theorem State.enterSlice_lderrRec (s : State) (c : Fin 4) : (s.enterSlice c).lderrRec = s.lderrRec := rfl
@[simp] theorem State.enterSlice_lderrRef (s : State) (c : Fin 4) : (s.enterSlice c).lderrRef = s.lderrRef := rfl
@[simp] theorem State.enterSlice_sndId (s : State) (c : Fin 4) : (s.enterSlice c).sndId = s.sndId := rfl
@[simp] theorem State.enterSlice_sndValid (s : State) (c : Fin 4) : (s.enterSlice c).sndValid = s.sndValid := rfl
@[simp] theorem State.enterSlice_facc (s : State) (c : Fin 4) : (s.enterSlice c).facc = s.facc := rfl
@[simp] theorem State.enterSlice_arg (s : State) (c : Fin 4) : (s.enterSlice c).arg = s.arg := rfl
@[simp] theorem State.enterSlice_out (s : State) (c : Fin 4) : (s.enterSlice c).out = s.out := rfl
@[simp] theorem State.enterSlice_ch (s : State) (c : Fin 4) : (s.enterSlice c).ch = s.ch := rfl
@[simp] theorem State.enterSlice_seqr (s : State) (c : Fin 4) : (s.enterSlice c).seqr = { active := true, chan := c, xfers := 0 } := rfl
@[simp] theorem State.enterSlice_host (s : State) (c : Fin 4) : (s.enterSlice c).host = s.host := rfl
@[simp] theorem State.enterSlice_rdata (s : State) (c : Fin 4) : (s.enterSlice c).rdata = s.rdata := rfl
@[simp] theorem State.enterSlice_epoch (s : State) (c : Fin 4) : (s.enterSlice c).epoch = s.epoch := rfl

@[simp] theorem State.leaveSlice_par (s : State) : (s.leaveSlice).par = s.par := rfl
@[simp] theorem State.leaveSlice_mem (s : State) : (s.leaveSlice).mem = s.mem := rfl
@[simp] theorem State.leaveSlice_loaded (s : State) : (s.leaveSlice).loaded = s.loaded := rfl
@[simp] theorem State.leaveSlice_dir (s : State) : (s.leaveSlice).dir = s.dir := rfl
@[simp] theorem State.leaveSlice_unkskip (s : State) : (s.leaveSlice).unkskip = s.unkskip := rfl
@[simp] theorem State.leaveSlice_mono (s : State) : (s.leaveSlice).mono = s.mono := rfl
@[simp] theorem State.leaveSlice_result (s : State) : (s.leaveSlice).result = s.result := rfl
@[simp] theorem State.leaveSlice_lderrRec (s : State) : (s.leaveSlice).lderrRec = s.lderrRec := rfl
@[simp] theorem State.leaveSlice_lderrRef (s : State) : (s.leaveSlice).lderrRef = s.lderrRef := rfl
@[simp] theorem State.leaveSlice_sndId (s : State) : (s.leaveSlice).sndId = s.sndId := rfl
@[simp] theorem State.leaveSlice_sndValid (s : State) : (s.leaveSlice).sndValid = s.sndValid := rfl
@[simp] theorem State.leaveSlice_facc (s : State) : (s.leaveSlice).facc = s.facc := rfl
@[simp] theorem State.leaveSlice_arg (s : State) : (s.leaveSlice).arg = s.arg := rfl
@[simp] theorem State.leaveSlice_out (s : State) : (s.leaveSlice).out = s.out := rfl
@[simp] theorem State.leaveSlice_ch (s : State) : (s.leaveSlice).ch = s.ch := rfl
@[simp] theorem State.leaveSlice_seqr (s : State) : (s.leaveSlice).seqr = Sequencer.idle := rfl
@[simp] theorem State.leaveSlice_host (s : State) : (s.leaveSlice).host = s.host := rfl
@[simp] theorem State.leaveSlice_rdata (s : State) : (s.leaveSlice).rdata = s.rdata := rfl
@[simp] theorem State.leaveSlice_epoch (s : State) : (s.leaveSlice).epoch = s.epoch := rfl

@[simp] theorem State.succeed_par (s : State) : (s.succeed).par = s.par := rfl
@[simp] theorem State.succeed_mem (s : State) : (s.succeed).mem = s.mem := rfl
@[simp] theorem State.succeed_loaded (s : State) : (s.succeed).loaded = s.loaded := rfl
@[simp] theorem State.succeed_dir (s : State) : (s.succeed).dir = s.dir := rfl
@[simp] theorem State.succeed_unkskip (s : State) : (s.succeed).unkskip = s.unkskip := rfl
@[simp] theorem State.succeed_mono (s : State) : (s.succeed).mono = s.mono := rfl
@[simp] theorem State.succeed_result (s : State) : (s.succeed).result = .ok := rfl
@[simp] theorem State.succeed_lderrRec (s : State) : (s.succeed).lderrRec = s.lderrRec := rfl
@[simp] theorem State.succeed_lderrRef (s : State) : (s.succeed).lderrRef = s.lderrRef := rfl
@[simp] theorem State.succeed_sndId (s : State) : (s.succeed).sndId = s.sndId := rfl
@[simp] theorem State.succeed_sndValid (s : State) : (s.succeed).sndValid = s.sndValid := rfl
@[simp] theorem State.succeed_facc (s : State) : (s.succeed).facc = s.facc := rfl
@[simp] theorem State.succeed_arg (s : State) : (s.succeed).arg = s.arg := rfl
@[simp] theorem State.succeed_out (s : State) : (s.succeed).out = s.out := rfl
@[simp] theorem State.succeed_ch (s : State) : (s.succeed).ch = s.ch := rfl
@[simp] theorem State.succeed_seqr (s : State) : (s.succeed).seqr = s.seqr := rfl
@[simp] theorem State.succeed_host (s : State) : (s.succeed).host = s.host := rfl
@[simp] theorem State.succeed_rdata (s : State) : (s.succeed).rdata = s.rdata := rfl
@[simp] theorem State.succeed_epoch (s : State) : (s.succeed).epoch = s.epoch := rfl

@[simp] theorem State.chan_enterSlice (s : State) (c d : Fin 4) : (s.enterSlice c).chan d = s.chan d := rfl

@[simp] theorem State.cur_enterSlice (s : State) (c : Fin 4) : (s.enterSlice c).cur = s.chan c := rfl

@[simp] theorem State.chan_leaveSlice (s : State) (d : Fin 4) : s.leaveSlice.chan d = s.chan d := rfl

@[simp] theorem State.chan_succeed (s : State) (d : Fin 4) : s.succeed.chan d = s.chan d := rfl

end Sys2Proof.Machine
end

