-- ==== Sys2Proof/Laws/Memory.lean ====
section
/-! SUPPORT. The laws of the byte memory: read after write, and the canonical form that every memory
operation keeps. -/

namespace Sys2Proof.Machine

@[simp] theorem Memory.read_nil (a : Nat) : Memory.read [] a = Memory.blank := rfl

/-- An address below every listed one is unlisted. -/
theorem Memory.read_of_all_lt {m : Memory} {a : Nat} (h : ∀ e ∈ m, a < e.1) : m.read a = Memory.blank := by
  induction m with
  | nil => rfl
  | cons e m ih =>
    obtain ⟨b, w⟩ := e
    have hb : a < b := h (b, w) (by simp)
    simp only [Memory.read]
    rw [if_neg (by omega)]
    exact ih fun e he => h e (by simp [he])

/-- The canonical form, entry by entry. -/
theorem Memory.wf_cons {b : Nat} {w : Byte} {m : Memory} :
    Memory.wf ((b, w) :: m) = true ↔ w ≠ Memory.blank ∧ (∀ e ∈ m, b < e.1) ∧ m.wf = true := by
  simp [Memory.wf, and_assoc]

theorem Memory.wf_tail {e : Host.Cell} {m : Memory} (h : Memory.wf (e :: m) = true) : m.wf = true :=
  (Memory.wf_cons.mp h).2.2

/-- Every entry of a memory after a write is an old one or the written one. -/
theorem Memory.mem_write {m : Memory} {a : Nat} {v : Byte} {e : Host.Cell} (h : e ∈ m.write a v) :
    e ∈ m ∨ e = (a, v) := by
  induction m with
  | nil =>
    simp only [Memory.write] at h
    split at h <;> simp_all
  | cons x m ih =>
    obtain ⟨b, w⟩ := x
    simp only [Memory.write] at h
    split at h
    · split at h
      · exact .inl h
      · simp only [List.mem_cons] at h ⊢; tauto
    · split at h
      · split at h
        · simp only [List.mem_cons]; tauto
        · simp only [List.mem_cons] at h ⊢; tauto
      · simp only [List.mem_cons] at h ⊢
        rcases h with h | h
        · tauto
        · rcases ih h with h | h <;> tauto

/-- A write keeps the canonical form. -/
theorem Memory.wf_write {m : Memory} (h : m.wf = true) (a : Nat) (v : Byte) : (m.write a v).wf = true := by
  induction m with
  | nil =>
    simp only [Memory.write]
    split
    · rfl
    · simp_all [Memory.wf]
  | cons x m ih =>
    obtain ⟨b, w⟩ := x
    obtain ⟨hw, hb, hm⟩ := Memory.wf_cons.mp h
    simp only [Memory.write]
    split
    · rename_i hab
      split
      · exact h
      · rename_i hv
        refine Memory.wf_cons.mpr ⟨hv, fun e he => ?_, h⟩
        rcases List.mem_cons.mp he with rfl | he
        · exact hab
        · exact lt_trans hab (hb e he)
    · rename_i hab
      split
      · rename_i hab'
        subst hab'
        split
        · exact hm
        · rename_i hv
          exact Memory.wf_cons.mpr ⟨hv, hb, hm⟩
      · rename_i hne
        refine Memory.wf_cons.mpr ⟨hw, fun e he => ?_, ih hm⟩
        rcases Memory.mem_write he with he | rfl
        · exact hb e he
        · show b < a; omega

/-- Reading the byte just written gives it back. -/
theorem Memory.read_write_self {m : Memory} (h : m.wf = true) (a : Nat) (v : Byte) :
    (m.write a v).read a = v := by
  induction m with
  | nil =>
    simp only [Memory.write]
    split <;> simp_all [Memory.read]
  | cons x m ih =>
    obtain ⟨b, w⟩ := x
    obtain ⟨hw, hb, hm⟩ := Memory.wf_cons.mp h
    simp only [Memory.write]
    split
    · rename_i hab
      split
      · rename_i hv
        subst hv
        apply Memory.read_of_all_lt
        intro e he
        rcases List.mem_cons.mp he with rfl | he
        · exact hab
        · exact lt_trans hab (hb e he)
      · simp [Memory.read]
    · rename_i hab
      split
      · rename_i hab'
        subst hab'
        split
        · rename_i hv
          subst hv
          exact Memory.read_of_all_lt hb
        · simp [Memory.read]
      · rename_i hne
        simp only [Memory.read]
        rw [if_neg hne]
        exact ih hm

/-- A write leaves every other byte alone. -/
theorem Memory.read_write_ne {m : Memory} {a b : Nat} (hne : b ≠ a) (v : Byte) :
    (m.write a v).read b = m.read b := by
  induction m with
  | nil =>
    simp only [Memory.write]
    split <;> simp_all [Memory.read]
  | cons x m ih =>
    obtain ⟨c, w⟩ := x
    simp only [Memory.write]
    split
    · split
      · rfl
      · simp [Memory.read, hne]
    · split
      · rename_i h
        subst h
        split <;> simp [Memory.read, hne]
      · simp only [Memory.read]
        rw [ih]

/-- A canonical memory is determined by what its addresses read as. -/
theorem Memory.ext_read {m n : Memory} (hm : m.wf = true) (hn : n.wf = true) (h : ∀ a, m.read a = n.read a) :
    m = n := by
  induction m generalizing n with
  | nil =>
    cases n with
    | nil => rfl
    | cons y n =>
      obtain ⟨b, w⟩ := y
      have := h b
      simp [Memory.read] at this
      exact absurd this.symm (Memory.wf_cons.mp hn).1
  | cons x m ih =>
    obtain ⟨a, v⟩ := x
    obtain ⟨hv, ha, hm'⟩ := Memory.wf_cons.mp hm
    cases n with
    | nil =>
      have := h a
      simp [Memory.read] at this
      exact absurd this hv
    | cons y n =>
      obtain ⟨b, w⟩ := y
      obtain ⟨hw, hb, hn'⟩ := Memory.wf_cons.mp hn
      have hab : a = b := by
        rcases Nat.lt_trichotomy a b with hlt | heq | hlt
        · exfalso
          have h1 := h a
          have h2 : Memory.read ((b, w) :: n) a = Memory.blank := by
            apply Memory.read_of_all_lt
            intro e he
            rcases List.mem_cons.mp he with rfl | he
            · exact hlt
            · exact lt_trans hlt (hb e he)
          rw [h2] at h1
          simp [Memory.read] at h1
          exact hv h1
        · exact heq
        · exfalso
          have h1 := h b
          have h2 : Memory.read ((a, v) :: m) b = Memory.blank := by
            apply Memory.read_of_all_lt
            intro e he
            rcases List.mem_cons.mp he with rfl | he
            · exact hlt
            · exact lt_trans hlt (ha e he)
          rw [h2] at h1
          simp [Memory.read] at h1
          exact hw h1.symm
      subst hab
      have hvw : v = w := by
        have := h a
        simpa [Memory.read] using this
      subst hvw
      congr 1
      refine ih hm' hn' fun c => ?_
      by_cases hc : c = a
      · subst hc
        rw [Memory.read_of_all_lt ha, Memory.read_of_all_lt hb]
      · have := h c
        simpa [Memory.read, hc] using this

/-- The canonical form from two facts about the entries: sorted by address and none blank. -/
theorem Memory.wf_of_pairwise {m : Memory} (hp : m.Pairwise fun x y => x.1 < y.1)
    (hb : ∀ e ∈ m, e.2 ≠ Memory.blank) : m.wf = true := by
  induction m with
  | nil => rfl
  | cons x m ih =>
    obtain ⟨b, w⟩ := x
    have hp' := List.pairwise_cons.mp hp
    exact Memory.wf_cons.mpr ⟨hb (b, w) (by simp), fun e he => hp'.1 e he,
      ih hp'.2 fun e he => hb e (by simp [he])⟩

/-- The memory after a platform reset has the canonical form. -/
theorem Memory.wf_fill (n : Nat) (f : Nat → Byte) : (Memory.fill n f).wf = true := by
  apply Memory.wf_of_pairwise
  · unfold Memory.fill
    apply List.Pairwise.filter
    rw [List.pairwise_map]
    exact List.pairwise_lt_range
  · intro e he
    simpa using (List.mem_filter.mp he).2

/-- The memory after a platform reset lists addresses below its size only. -/
theorem Memory.fill_bound {n : Nat} {f : Nat → Byte} {e : Host.Cell} (h : e ∈ Memory.fill n f) : e.1 < n := by
  unfold Memory.fill at h
  obtain ⟨h, _⟩ := List.mem_filter.mp h
  obtain ⟨a, ha, rfl⟩ := List.mem_map.mp h
  exact List.mem_range.mp ha

/-- The value of `n` bytes fits `n` bytes (R62). -/
theorem Memory.value_lt (m : Memory) (a n : Nat) : m.value a n < 256 ^ n := by
  induction n with
  | zero => simp [Memory.value]
  | succ n ih =>
    have := (m.read (a + n)).isLt
    simp only [Memory.value, pow_succ]
    omega

@[simp] theorem Memory.value_one (m : Memory) (a : Nat) : m.value a 1 = (m.read a).toNat := by
  simp [Memory.value]

/-- `MemRead` within the memory (R62), and its only fault. -/
theorem memRead_eq_ok {s : State} {a n v : Nat} :
    memRead s a n = .ok v ↔ a + n ≤ s.par.memSize ∧ v = s.mem.value a n := by
  unfold memRead
  split <;> simp_all [eq_comm]

theorem memRead_lt {s : State} {a n v : Nat} (h : memRead s a n = .ok v) : v < 256 ^ n := by
  obtain ⟨_, rfl⟩ := memRead_eq_ok.mp h
  exact s.mem.value_lt a n

@[simp] theorem memReadByte_eq_ok {s : State} {a : Nat} {b : Byte} :
    memReadByte s a = .ok b ↔ a + 1 ≤ s.par.memSize ∧ b = s.mem.read a := by
  unfold memReadByte memRead
  split <;> simp_all [Except.map, eq_comm]

end Sys2Proof.Machine
end

