-- ==== Sys2Proof/Laws/Ops.lean ====
section
/-! SUPPORT. For each shared operation, once, everything it can do. -/

namespace Sys2Proof.Machine

/-! ## Outcomes -/

@[simp] theorem andThen_next (s : State) (k : State → Result) : andThen (.next s) k = k s := rfl

@[simp] theorem andThen_fault (f : Fault) (k : State → Result) : andThen (.fault f) k = .fault f := rfl

@[simp] theorem onRead_ok {α : Type} (v : α) (k : α → Result) : onRead (.ok v) k = k v := rfl

@[simp] theorem onRead_error {α : Type} (f : Fault) (k : α → Result) : onRead (.error f) k = .fault f := rfl

/-- A sequence of two that answers next answered next in between. -/
theorem andThen_eq_next {r : Result} {k : State → Result} {t : State} :
    andThen r k = .next t ↔ ∃ u, r = .next u ∧ k u = .next t := by
  cases r <;> simp [andThen]

theorem andThen_eq_fault {r : Result} {k : State → Result} {f : Fault} :
    andThen r k = .fault f ↔ r = .fault f ∨ ∃ u, r = .next u ∧ k u = .fault f := by
  cases r <;> simp [andThen]

/-- A meaning that reads and then answers next read a value. -/
theorem onRead_eq_next {α : Type} {r : Except Fault α} {k : α → Result} {t : State} :
    onRead r k = .next t ↔ ∃ v, r = .ok v ∧ k v = .next t := by
  cases r <;> simp [onRead]

theorem onRead_eq_fault {α : Type} {r : Except Fault α} {k : α → Result} {f : Fault} :
    onRead r k = .fault f ↔ r = .error f ∨ ∃ v, r = .ok v ∧ k v = .fault f := by
  cases r <;> simp [onRead]

/-- A read that is a sequence of two. -/
theorem bind_eq_ok {α β : Type} {r : Except Fault α} {k : α → Except Fault β} {v : β} :
    (r >>= k) = .ok v ↔ ∃ u, r = .ok u ∧ k u = .ok v := by
  cases r <;> simp [bind, Except.bind]

/-! ## Values -/

/-- A clamped value lies in its range (R12). -/
theorem clamp_mem {v lo hi : Int} (h : lo ≤ hi) : lo ≤ clamp v lo hi ∧ clamp v lo hi ≤ hi := by
  unfold clamp
  split
  · omega
  · split <;> omega

/-- A value in the range is not changed by the clamp (R12). -/
theorem clamp_of_mem {v lo hi : Int} (h1 : lo ≤ v) (h2 : v ≤ hi) : clamp v lo hi = v := by
  unfold clamp
  rw [if_neg (by omega), if_neg (by omega)]

/-- The signed value of a byte (R12). -/
theorem sext_mem (a : Byte) : -128 ≤ sext a ∧ sext a ≤ 127 := by
  have := a.isLt
  unfold sext
  split <;> omega

/-- The clamp of R131 and R133 moves only the pitch 0. -/
theorem pitchOf_eq (w : Half) : pitchOf w = if w = 0 then 1 else w := by
  have hw := w.isLt
  unfold pitchOf clamp Config.pitchMin Config.pitchMax
  by_cases h : w = 0
  · subst h; decide
  · have h0 : 1 ≤ w.toNat := by
      rcases Nat.eq_zero_or_pos w.toNat with h' | h'
      · exact absurd (BitVec.eq_of_toNat_eq (by simpa using h')) h
      · exact h'
    rw [if_neg h, if_neg (by push_cast; omega), if_neg (by push_cast; omega)]
    simp

/-- An absolute volume (R141). -/
theorem volOf_toNat (v : Nat) : (volOf v).toNat = min v 64 := by
  unfold volOf Config.volMax
  simp only [BitVec.toNat_ofNat]
  omega

/-- A relative volume as an exact integer (R142). -/
theorem volPlus_toNat (v : BitVec 7) (a : Byte) : ((volPlus v a).toNat : Int) = clamp (v.toNat + sext a) 0 64 := by
  unfold volPlus Config.volMax
  obtain ⟨h1, h2⟩ := clamp_mem (v := (v.toNat : Int) + sext a) (lo := 0) (hi := 64) (by omega)
  rw [BitVec.toNat_ofInt]
  push_cast
  omega

/-- The effective pitch stays in its range (R183). -/
theorem effPitch_mem (p : Config) (x : Channel) : 1 ≤ effPitch p x ∧ effPitch p x ≤ 65535 := by
  unfold effPitch Config.pitchMin Config.pitchMax
  have := clamp_mem (v := (x.pitch.toNat : Int) + oscOffset p x.vph x.vdep) (lo := 1) (hi := 65535) (by omega)
  push_cast
  omega

/-- The effective volume stays in its range (R184). -/
theorem effVol_le (p : Config) (x : Channel) : effVol p x ≤ 64 := by
  unfold effVol Config.volMax
  have := clamp_mem (v := (x.vol.toNat : Int) + oscOffset p x.tph x.tdep) (lo := 0) (hi := 64) (by omega)
  push_cast
  omega

/-- Every table entry is between -32 and 32 (R10). -/
theorem wave_mem (p : Config) (i : Nat) (h : i < 64) : -32 ≤ p.wave[i] ∧ p.wave[i] ≤ 32 := by
  have hall := List.all_eq_true.mp p.wave_ok
  have := hall p.wave[i] (by simp [Vector.mem_toList_iff])
  simpa using this

/-! ## Taking transfers and running slices -/

/-- `Transfer` (R119): either the event, or the transfer counted. -/
theorem transfer_cases (op : Byte) (x : Channel) (s : State) :
    (s.seqr.xfers.val = 256 ∧ transfer op x s = s.setCur (s.cur.raise .runawayLoop op)) ∨
    (s.seqr.xfers.val < 256 ∧
      transfer op x s = { s.setCur x with seqr := { s.seqr with xfers := s.seqr.xfers + 1 } } ∧
      (s.seqr.xfers + 1).val = s.seqr.xfers.val + 1) := by
  have hlt := s.seqr.xfers.isLt
  unfold transfer Config.runawayLimit
  by_cases h : s.seqr.xfers.val = 256
  · exact .inl ⟨h, by rw [if_pos h]⟩
  · refine .inr ⟨by omega, by rw [if_neg h], ?_⟩
    rw [Fin.val_add]
    show (s.seqr.xfers.val + 1) % 257 = _
    omega

theorem sliceLoop_zero (s : State) :
    sliceLoop 0 s = if s.cur.st = .running then .fault .sliceBound else .next s.leaveSlice := rfl

theorem sliceLoop_succ (n : Nat) (s : State) :
    sliceLoop (n + 1) s =
      if s.cur.st = .running then andThen (slicePass execute s) (sliceLoop n) else .next s.leaveSlice := rfl

@[simp] theorem renderFrames_zero (s : State) : renderFrames 0 s = .next s := rfl

theorem renderFrames_succ (n : Nat) (s : State) :
    renderFrames (n + 1) s = andThen (frame s) (renderFrames n) := rfl

/-- The two dispatchers agree: `Execute` of R118 is `exec` of the instruction. -/
theorem execute_eq_exec (b : Bytecode) (s : State) : execute b s = exec b.toInstr s := by
  cases b <;> rfl

end Sys2Proof.Machine
end

