-- ==== Sys2Proof/Laws/Composite.lean ====
section
/-! SUPPORT. What the composite operations can do, once each: the record reads, the fetch, a pass of a slice,
the slice, the tick, the frames and the check of `LOAD`. -/

namespace Sys2Proof.Machine

/-! ## Record reads -/

/-- A sequence record that was read: both fields lie inside `M` (R72). -/
theorem readSeq_eq_ok {s : State} {q : Nat} {S : SeqRecord} :
    readSeq s q = .ok S ↔
      seqAddr s q + 6 ≤ s.par.memSize ∧ S.code = s.mem.value (seqAddr s q) 4 ∧
        S.len = s.mem.value (seqAddr s q + 4) 2 := by
  obtain ⟨code, len⟩ := S
  simp only [readSeq, bind_eq_ok, memRead_eq_ok]
  constructor
  · rintro ⟨u, ⟨h1, rfl⟩, v, ⟨h2, rfl⟩, h⟩
    injection h with h
    injection h with h3 h4
    exact ⟨by omega, h3.symm, h4.symm⟩
  · rintro ⟨h, rfl, rfl⟩
    exact ⟨_, ⟨by omega, rfl⟩, _, ⟨by omega, rfl⟩, rfl⟩

/-- The declared length of a sequence is a 16-bit number (R72, R73). -/
theorem readSeq_len_lt {s : State} {q : Nat} {S : SeqRecord} (h : readSeq s q = .ok S) : S.len < 65536 := by
  rw [(readSeq_eq_ok.mp h).2.2]
  exact Memory.value_lt _ _ 2

/-- A sample record that was read: all its twenty bytes lie inside `M` (R68). -/
theorem readSample_eq_ok {s : State} {k : Nat} {S : Sample} :
    readSample s k = .ok S ↔
      smpAddr s k + 20 ≤ s.par.memSize ∧
        S = { data := s.mem.value (smpAddr s k) 4, length := s.mem.value (smpAddr s k + 4) 4,
              loopStart := s.mem.value (smpAddr s k + 8) 4, loopLength := s.mem.value (smpAddr s k + 12) 4,
              rate := s.mem.value (smpAddr s k + 16) 4 } := by
  simp only [readSample, bind_eq_ok, memRead_eq_ok]
  constructor
  · rintro ⟨_, ⟨_, rfl⟩, _, ⟨_, rfl⟩, _, ⟨_, rfl⟩, _, ⟨_, rfl⟩, _, ⟨h, rfl⟩, h'⟩
    injection h' with h'
    exact ⟨by omega, h'.symm⟩
  · rintro ⟨h, rfl⟩
    exact ⟨_, ⟨by omega, rfl⟩, _, ⟨by omega, rfl⟩, _, ⟨by omega, rfl⟩, _, ⟨by omega, rfl⟩, _,
      ⟨by omega, rfl⟩, rfl⟩

/-- An instrument record that was read: its first twelve bytes lie inside `M` (R70, R71). -/
theorem readInstrument_eq_ok {s : State} {i : Nat} {I : Instrument} :
    readInstrument s i = .ok I ↔
      insAddr s i + 12 ≤ s.par.memSize ∧
        I = { sample := s.mem.value (insAddr s i) 2, basePitch := s.mem.value (insAddr s i + 2) 2,
              defvol := (s.mem.read (insAddr s i + 4)).toNat, silence := sext (s.mem.read (insAddr s i + 5)),
              flags := s.mem.read (insAddr s i + 6), vibDepth := s.mem.read (insAddr s i + 8),
              vibSpeed := s.mem.read (insAddr s i + 9), tremDepth := s.mem.read (insAddr s i + 10),
              tremSpeed := s.mem.read (insAddr s i + 11) } := by
  simp only [readInstrument, bind_eq_ok, memRead_eq_ok, memReadByte_eq_ok, Memory.value_one]
  constructor
  · rintro ⟨_, ⟨_, rfl⟩, _, ⟨_, rfl⟩, _, ⟨_, rfl⟩, _, ⟨_, rfl⟩, _, ⟨_, rfl⟩, _, ⟨_, rfl⟩, _, ⟨_, rfl⟩,
      _, ⟨_, rfl⟩, _, ⟨h, rfl⟩, h'⟩
    injection h' with h'
    exact ⟨by omega, h'.symm⟩
  · rintro ⟨h, rfl⟩
    exact ⟨_, ⟨by omega, rfl⟩, _, ⟨by omega, rfl⟩, _, ⟨by omega, rfl⟩, _, ⟨by omega, rfl⟩, _,
      ⟨by omega, rfl⟩, _, ⟨by omega, rfl⟩, _, ⟨by omega, rfl⟩, _, ⟨by omega, rfl⟩, _, ⟨by omega, rfl⟩, rfl⟩

/-- The bytes fetched one at a time are the memory's (R61). -/
theorem memReadBytes_eq_ok {s : State} {a n : Nat} {bs : List Byte} :
    memReadBytes s a n = .ok bs ↔
      (n = 0 ∨ a + n ≤ s.par.memSize) ∧ bs = (List.range n).map fun k => s.mem.read (a + k) := by
  induction n generalizing a bs with
  | zero => simp [memReadBytes, eq_comm]
  | succ n ih =>
    simp only [memReadBytes, bind_eq_ok, memReadByte_eq_ok, ih, List.range_succ_eq_map, List.map_cons,
      List.map_map]
    constructor
    · rintro ⟨_, ⟨h1, rfl⟩, _, ⟨h2, rfl⟩, h⟩
      injection h with h
      refine ⟨.inr (by omega), ?_⟩
      rw [← h]
      simp [Function.comp_def, Nat.add_assoc, Nat.add_comm 1]
    · rintro ⟨h, rfl⟩
      refine ⟨_, ⟨by omega, rfl⟩, _, ⟨by omega, rfl⟩, ?_⟩
      simp [Function.comp_def, Nat.add_assoc, Nat.add_comm 1]

/-- An amplitude that was read: its byte lies inside `M` (R69). -/
theorem readAmp_eq_ok {s : State} {S : Sample} {j : Nat} {v : Int} :
    readAmp s S j = .ok v ↔ S.data + j + 1 ≤ s.par.memSize ∧ v = sext (s.mem.read (S.data + j)) := by
  unfold readAmp memReadByte memRead
  split <;> simp_all [Except.map, eq_comm]

/-- An amplitude beyond `M` faults with its address, never reduced modulo 2^32 (R62, U1). -/
theorem readAmp_eq_error {s : State} {S : Sample} {j : Nat} (h : s.par.memSize ≤ S.data + j) :
    readAmp s S j = .error (.memRead (S.data + j) 1) := by
  unfold readAmp memReadByte memRead
  rw [if_neg (by omega)]
  rfl

/-! ## The fetch and a pass of the slice -/

/-- A fetch that answers: past the declared end, or an instruction that lies inside it (R95, R100). -/
theorem fetch_eq_ok {s : State} {q o : Nat} {d : Except DecodeError (Bytecode × Nat)}
    (h : fetch s q o = .ok d) :
    ∃ S, readSeq s q = .ok S ∧
      (d = .error .pastEnd ∨
        ∃ bs, memReadBytes s (S.code + o) (ilen (s.mem.read (S.code + o))) = .ok bs ∧ d = decodeStream bs ∧
          o + ilen (s.mem.read (S.code + o)) ≤ S.len) := by
  simp only [fetch, bind_eq_ok] at h
  obtain ⟨S, hS, h⟩ := h
  refine ⟨S, hS, ?_⟩
  split at h
  · injection h with h
    exact .inl h.symm
  · obtain ⟨op, hop, h⟩ := bind_eq_ok.mp h
    obtain ⟨hin, rfl⟩ := memReadByte_eq_ok.mp hop
    split at h
    · injection h with h
      exact .inl h.symm
    · obtain ⟨bs, hbs, h⟩ := bind_eq_ok.mp h
      injection h with h
      exact .inr ⟨bs, hbs, h.symm, by omega⟩

/-- A pass that answers next either ran a decoded instruction or stopped the channel past the end (R116,
R117). -/
theorem slicePass_eq_next {ex : Bytecode → State → Result} {s t : State} (h : slicePass ex s = .next t) :
    (∃ e, fetchCur s = .ok (.error e) ∧ t = s.setCur (s.cur.halt .pastEnd)) ∨
    (∃ b n, fetchCur s = .ok (.ok (b, n)) ∧ ex b s = .next t) := by
  obtain ⟨d, hd, h⟩ := onRead_eq_next.mp h
  match d with
  | .error e =>
    injection h with h
    exact .inl ⟨e, hd, h.symm⟩
  | .ok (b, n) => exact .inr ⟨b, n, hd, h⟩

/-- An invariant of the passes holds at the end of the loop, where the channel is not `RUNNING` and no slice
is in progress (R116). -/
theorem sliceLoop_invariant {P : State → Prop}
    (pass : ∀ s t, P s → s.cur.st = .running → slicePass execute s = .next t → P t) :
    ∀ (n : Nat) (s t : State), P s → sliceLoop n s = .next t →
      ∃ u, P u ∧ u.cur.st ≠ .running ∧ t = u.leaveSlice := by
  intro n
  induction n with
  | zero =>
    intro s t hs h
    rw [sliceLoop_zero] at h
    split at h
    · cases h
    · injection h with h
      exact ⟨s, hs, ‹_›, h.symm⟩
  | succ n ih =>
    intro s t hs h
    rw [sliceLoop_succ] at h
    split at h
    · obtain ⟨u, hu, h⟩ := andThen_eq_next.mp h
      exact ih u t (pass s u hs ‹_› hu) h
    · injection h with h
      exact ⟨s, hs, ‹_›, h.symm⟩

/-! ## The tick -/

/-- `ChanTick` (R113 to R115): nothing, a count down, or a slice. -/
theorem chanTick_cases (c : Fin 4) (s : State) :
    (((s.chan c).st = .idle ∨ (s.chan c).st = .stopped) ∧ chanTick c s = .next s) ∨
    ((s.chan c).st = .running ∧ chanTick c s = slice c (s.setChan c (s.chan c).advancePhases)) ∨
    ((s.chan c).st = .waiting ∧ (s.chan c).wait ≠ 1 ∧ chanTick c s =
      .next (s.setChan c { (s.chan c).advancePhases with wait := (s.chan c).wait - 1 })) ∨
    ((s.chan c).st = .waiting ∧ (s.chan c).wait = 1 ∧ chanTick c s =
      slice c (s.setChan c { (s.chan c).advancePhases with wait := 0, st := .running })) := by
  unfold chanTick
  cases hst : (s.chan c).st
  · exact .inl ⟨.inl rfl, rfl⟩
  · exact .inr (.inl ⟨rfl, rfl⟩)
  · by_cases hw : (s.chan c).wait = 1
    · refine .inr (.inr (.inr ⟨rfl, hw, ?_⟩))
      simp [hw]
    · have : (s.chan c).wait - 1 ≠ 0 := by
        intro h
        exact hw (by rw [← BitVec.sub_add_cancel (s.chan c).wait 1, h]; rfl)
      refine .inr (.inr (.inl ⟨rfl, hw, ?_⟩))
      exact if_pos this
  · exact .inl ⟨.inr rfl, rfl⟩

/-- `Tick` (R112): the four channels one after the other. -/
theorem tick_eq_next {s t : State} :
    tick s = .next t ↔ ∃ s1 s2 s3, chanTick 0 s = .next s1 ∧ chanTick 1 s1 = .next s2 ∧
      chanTick 2 s2 = .next s3 ∧ chanTick 3 s3 = .next t := by
  simp only [tick, andThen_eq_next]
  constructor
  · rintro ⟨s1, h1, s2, h2, s3, h3, h4⟩
    exact ⟨s1, s2, s3, h1, h2, h3, h4⟩
  · rintro ⟨s1, s2, s3, h1, h2, h3, h4⟩
    exact ⟨s1, h1, s2, h2, s3, h3, h4⟩

/-! ## Frames -/

/-- A cursor whose integer part fits is written back exactly (R188, R189). -/
theorem Channel.setCursor_toNat {cur : Nat} (x : Channel) (h : cur / 65536 < 2 ^ 32) :
    (x.setCursor cur).curi.toNat = cur / 65536 ∧ (x.setCursor cur).curf.toNat = cur % 65536 := by
  simp only [Channel.setCursor_curi, Channel.setCursor_curf, BitVec.toNat_ofNat]
  omega

/-- The fetch and the scaling (R190, R191): when they answer, the byte lies inside `M`, so the cursor's integer part
fits its register and the cursor is written back exactly. -/
theorem soundAt_eq_ok {s : State} {x : Channel} {S : Sample} {cur : Nat} {r : Int × Channel} :
    soundAt s x S cur = .ok r ↔
      S.data + cur / 65536 + 1 ≤ s.par.memSize ∧
        r = (sext (s.mem.read (S.data + cur / 65536)) * effVol s.par x, x.setCursor cur) := by
  simp only [soundAt, bind_eq_ok, readAmp_eq_ok, Except.ok.injEq]
  constructor
  · rintro ⟨_, ⟨h, rfl⟩, rfl⟩
    exact ⟨h, rfl⟩
  · rintro ⟨h, rfl⟩
    exact ⟨_, ⟨h, rfl⟩, rfl⟩

/-- A cursor that was fetched at has an integer part of 32 bits: every `M` ends at or before 2^32 (R10). -/
theorem soundAt_index_lt {s : State} {x : Channel} {S : Sample} {cur : Nat} {r : Int × Channel}
    (h : soundAt s x S cur = .ok r) : cur / 65536 < 2 ^ 32 := by
  have := (soundAt_eq_ok.mp h).1
  have := s.par.memSize_ok.2
  omega

/-- `ChanFrame` (R181, R192): silent without an instrument, at the silence level without a note, sounding. -/
theorem chanFrame_cases (s : State) (c : Fin 4) :
    (((s.chan c).live = false ∨ (s.chan c).insv = false) ∧ chanFrame s c = .ok (0, s.chan c)) ∨
    ((s.chan c).live = true ∧ (s.chan c).insv = true ∧
      chanFrame s c = do
        let I ← readInstrument s (s.chan c).ins.toNat
        let S ← readSample s I.sample
        if (s.chan c).gate = false then .ok (I.silence, s.chan c) else soundFrame s (s.chan c) I S) := by
  unfold chanFrame
  cases hl : (s.chan c).live
  · exact .inl ⟨.inl rfl, by simp [hl]⟩
  · cases hi : (s.chan c).insv
    · exact .inl ⟨.inr rfl, by simp [hl, hi]⟩
    · exact .inr ⟨rfl, rfl, by simp [hl, hi]⟩

/-- The four register sets written one after the other. -/
theorem setChan_four (s : State) (a b c d : Channel) :
    (((s.setChan 0 a).setChan 1 b).setChan 2 c).setChan 3 d = { s with ch := ⟨a, b, c, d⟩ } := rfl

/-- A frame that answers next: four channel frames in ascending order, then the words (R197). -/
theorem frame_eq_next {s t : State} (h : frame s = .next t) :
    ∃ r0 r1 r2 r3, chanFrame s 0 = .ok r0 ∧ chanFrame (s.setChan 0 r0.2) 1 = .ok r1 ∧
      chanFrame ((s.setChan 0 r0.2).setChan 1 r1.2) 2 = .ok r2 ∧
      chanFrame (((s.setChan 0 r0.2).setChan 1 r1.2).setChan 2 r2.2) 3 = .ok r3 ∧
      t = { s with
        ch := ⟨r0.2, r1.2, r2.2, r3.2⟩, out := s.out ++ mixWords s.mono (r0.1, r1.1, r2.1, r3.1) } := by
  obtain ⟨r, hr, h⟩ := onRead_eq_next.mp h
  simp only [frameChans, bind_eq_ok] at hr
  obtain ⟨r0, h0, r1, h1, r2, h2, r3, h3, hr⟩ := hr
  injection hr with hr
  rw [setChan_four] at hr
  subst hr
  injection h with h
  exact ⟨r0, r1, r2, r3, h0, h1, h2, h3, h.symm⟩

/-- A relation that holds of no frames and is extended by one frame holds of all of `Render` (R200). -/
theorem renderFrames_induct {P : Nat → State → State → Prop} (zero : ∀ s, P 0 s s)
    (succ : ∀ n s u t, frame s = .next u → P n u t → P (n + 1) s t) :
    ∀ (n : Nat) (s t : State), renderFrames n s = .next t → P n s t := by
  intro n
  induction n with
  | zero =>
    intro s t h
    injection h with h
    exact h ▸ zero s
  | succ n ih =>
    intro s t h
    obtain ⟨u, hu, h⟩ := andThen_eq_next.mp h
    exact succ n s u t hu (ih u t h)

/-! ## The check of `LOAD` -/

/-- The check found nothing: every identifier was read and names a sample (R212). -/
theorem findDangling_eq_none {s : State} {i k : Nat} :
    findDangling s i k = .ok none ↔
      ∀ j < k, ∃ r, memRead s (insAddr s (i + j)) 2 = .ok r ∧ r < s.dir.smpCnt.toNat := by
  induction k generalizing i with
  | zero => simp [findDangling]
  | succ k ih =>
    simp only [findDangling, bind_eq_ok]
    constructor
    · rintro ⟨r, hr, h⟩
      split at h
      · cases h
      · intro j hj
        cases j with
        | zero => exact ⟨r, hr, by omega⟩
        | succ j =>
          have := ih.mp h j (by omega)
          rwa [Nat.add_assoc, Nat.add_comm 1] at this
    · intro h
      obtain ⟨r, hr, hlt⟩ := h 0 (by omega)
      refine ⟨r, hr, ?_⟩
      rw [if_neg (by omega)]
      exact ih.mpr fun j hj => by
        have := h (j + 1) (by omega)
        rwa [Nat.add_assoc, Nat.add_comm 1]

/-- The check found an instrument: the first at fault (R212). -/
theorem findDangling_eq_some {s : State} {i k j r : Nat} (hj : j < k)
    (hr : memRead s (insAddr s (i + j)) 2 = .ok r) (hbad : s.dir.smpCnt.toNat ≤ r)
    (hlow : ∀ l < j, ∃ r, memRead s (insAddr s (i + l)) 2 = .ok r ∧ r < s.dir.smpCnt.toNat) :
    findDangling s i k = .ok (some (i + j, r)) := by
  induction j generalizing i k with
  | zero =>
    obtain ⟨k, rfl⟩ : ∃ n, k = n + 1 := ⟨k - 1, by omega⟩
    exact bind_eq_ok.mpr ⟨r, hr, if_pos hbad⟩
  | succ j ih =>
    obtain ⟨k, rfl⟩ : ∃ n, k = n + 1 := ⟨k - 1, by omega⟩
    obtain ⟨r0, hr0, hlt⟩ := hlow 0 (by omega)
    refine bind_eq_ok.mpr ⟨r0, hr0, ?_⟩
    rw [if_neg (by omega), show i + (j + 1) = i + 1 + j by omega]
    refine ih (by omega) (by rwa [show i + 1 + j = i + (j + 1) by omega]) fun l hl => ?_
    rw [show i + 1 + l = i + (l + 1) by omega]
    exact hlow (l + 1) (by omega)

end Sys2Proof.Machine
end

