-- ==== Sys2Proof/Laws/PerInstr.lean ====
section
/-! SUPPORT. Statements made instruction by instruction: one family, the length of an encoding. -/

namespace Sys2Proof.Laws.EncodeLength

/-- The encoding has one to four bytes; a command's is one byte; a well-formed bytecode instruction's is as
long as its opcode byte says (R91, R92, R210). -/
def Statement (i : Instr) : Prop :=
  1 ≤ (encode i).length ∧ (encode i).length ≤ 4 ∧ (i.port = .cmd → (encode i).length = 1) ∧
    (i.port = .stream → i.wellFormed = true → (encode i).length = ilen ((encode i).headD 0))

theorem endSeq : Statement .endSeq := ⟨by decide, by decide, nofun, fun _ _ => rfl⟩

theorem note (w : Half) : Statement (.note w) := ⟨by simp [encode], by simp [encode], nofun, fun _ _ => rfl⟩

theorem instr (a : Byte) : Statement (.instr a) := ⟨by simp [encode], by simp [encode], nofun, fun _ _ => rfl⟩

theorem vol (a : Byte) : Statement (.vol a) := ⟨by simp [encode], by simp [encode], nofun, fun _ _ => rfl⟩

theorem voladd (a : Byte) : Statement (.voladd a) := ⟨by simp [encode], by simp [encode], nofun, fun _ _ => rfl⟩

theorem pitch (w : Half) : Statement (.pitch w) := ⟨by simp [encode], by simp [encode], nofun, fun _ _ => rfl⟩

theorem vib (a b : Byte) : Statement (.vib a b) := ⟨by simp [encode], by simp [encode], nofun, fun _ _ => rfl⟩

theorem viboff : Statement .viboff := ⟨by decide, by decide, nofun, fun _ _ => rfl⟩

theorem trem (a b : Byte) : Statement (.trem a b) := ⟨by simp [encode], by simp [encode], nofun, fun _ _ => rfl⟩

theorem tremoff : Statement .tremoff := ⟨by decide, by decide, nofun, fun _ _ => rfl⟩

theorem wait (a : Byte) : Statement (.wait a) := ⟨by simp [encode], by simp [encode], nofun, fun _ _ => rfl⟩

theorem jmp (w : Half) : Statement (.jmp w) := ⟨by simp [encode], by simp [encode], nofun, fun _ _ => rfl⟩

theorem loop (a : Byte) (w : Half) : Statement (.loop a w) :=
  ⟨by simp [encode], by simp [encode], nofun, fun _ _ => rfl⟩

theorem unknown (op : Byte) : Statement (.unknown op) := by
  refine ⟨by simp [encode], by simp [encode], nofun, fun _ h => ?_⟩
  have h : 0x0D ≤ op.toNat := by simpa [Instr.wellFormed] using h
  show 1 = ilen op
  unfold ilen
  split <;> omega

theorem load : Statement .load := ⟨by decide, by decide, fun _ => rfl, nofun⟩

theorem start : Statement .start := ⟨by decide, by decide, fun _ => rfl, nofun⟩

theorem tick : Statement .tick := ⟨by decide, by decide, fun _ => rfl, nofun⟩

theorem render : Statement .render := ⟨by decide, by decide, fun _ => rfl, nofun⟩

theorem stop : Statement .stop := ⟨by decide, by decide, fun _ => rfl, nofun⟩

theorem runtick : Statement .runtick := ⟨by decide, by decide, fun _ => rfl, nofun⟩

end Sys2Proof.Laws.EncodeLength
end

