-- ==== Sys2Proof/Laws/Relations.lean ====
section
/-! SUPPORT. What a memory read depends on, the frame relations of Safety.lean as relations, and the host's run. -/

namespace Sys2Proof.Machine

/-! ## What a read depends on -/

theorem memRead_congr {s t : State} (hp : t.par = s.par) (hm : t.mem = s.mem) (a n : Nat) :
    memRead t a n = memRead s a n := by
  unfold memRead
  rw [hp, hm]

theorem memReadByte_congr {s t : State} (hp : t.par = s.par) (hm : t.mem = s.mem) (a : Nat) :
    memReadByte t a = memReadByte s a := by
  unfold memReadByte
  rw [memRead_congr hp hm]

theorem memReadBytes_congr {s t : State} (hp : t.par = s.par) (hm : t.mem = s.mem) (a n : Nat) :
    memReadBytes t a n = memReadBytes s a n := by
  induction n generalizing a with
  | zero => rfl
  | succ n ih => simp only [memReadBytes, memReadByte_congr hp hm, ih]

theorem readSeq_congr {s t : State} (hp : t.par = s.par) (hm : t.mem = s.mem) (hd : t.dir = s.dir) (q : Nat) :
    readSeq t q = readSeq s q := by
  unfold readSeq seqAddr
  simp only [memRead_congr hp hm, hd]

theorem readInstrument_congr {s t : State} (hp : t.par = s.par) (hm : t.mem = s.mem) (hd : t.dir = s.dir)
    (i : Nat) : readInstrument t i = readInstrument s i := by
  unfold readInstrument insAddr
  simp only [memRead_congr hp hm, memReadByte_congr hp hm, hd]

theorem readSample_congr {s t : State} (hp : t.par = s.par) (hm : t.mem = s.mem) (hd : t.dir = s.dir) (k : Nat) :
    readSample t k = readSample s k := by
  unfold readSample smpAddr
  simp only [memRead_congr hp hm, hd]

/-- The fetch depends on the parameters, the memory and the directory (R95, R117). -/
theorem fetch_congr {s t : State} (hp : t.par = s.par) (hm : t.mem = s.mem) (hd : t.dir = s.dir) (q o : Nat) :
    fetch t q o = fetch s q o := by
  unfold fetch
  simp only [readSeq_congr hp hm hd, memReadByte_congr hp hm, memReadBytes_congr hp hm]

/-- A channel's frame depends on the parameters, the memory, the directory and the channel (R192). -/
theorem chanFrame_congr {s t : State} {c d : Fin 4} (hp : t.par = s.par) (hm : t.mem = s.mem)
    (hd : t.dir = s.dir) (hc : t.chan d = s.chan c) : chanFrame t d = chanFrame s c := by
  have hs : ∀ x I S, soundFrame t x I S = soundFrame s x I S := by
    intro x I S
    unfold soundFrame soundAt readAmp
    simp only [hp, memReadByte_congr hp hm]
  unfold chanFrame
  simp only [hc, readInstrument_congr hp hm hd, readSample_congr hp hm hd, hs]

/-! ## The frame relations -/

theorem State.SameSetting.refl (s : State) : s.SameSetting s :=
  ⟨rfl, fun _ => rfl, rfl, rfl, rfl, rfl, rfl, rfl, rfl, rfl, rfl, rfl, rfl, rfl⟩

theorem State.SameSetting.trans {s t u : State} (h : s.SameSetting t) (k : t.SameSetting u) :
    s.SameSetting u :=
  ⟨k.par.trans h.par, fun a => (k.bytes a).trans (h.bytes a), k.mem.trans h.mem, k.loaded.trans h.loaded,
    k.dir.trans h.dir, k.unkskip.trans h.unkskip, k.mono.trans h.mono, k.lderrRec.trans h.lderrRec,
    k.lderrRef.trans h.lderrRef, k.sndId.trans h.sndId, k.sndValid.trans h.sndValid, k.host.trans h.host,
    k.rdata.trans h.rdata, k.epoch.trans h.epoch⟩

theorem State.OnlyChan.refl (s : State) (c : Fin 4) : s.OnlyChan s c :=
  ⟨State.SameSetting.refl s, fun _ _ => rfl, rfl, rfl, rfl, rfl⟩

theorem State.OnlyChan.trans {s t u : State} {c : Fin 4} (h : s.OnlyChan t c) (k : t.OnlyChan u c) :
    s.OnlyChan u c :=
  ⟨h.setting.trans k.setting, fun d hd => (k.others d hd).trans (h.others d hd), k.result.trans h.result,
    k.out.trans h.out, k.facc.trans h.facc, k.arg.trans h.arg⟩

/-- Writing one register set touches that channel alone. -/
theorem State.setChan_onlyChan (s : State) (c : Fin 4) (x : Channel) : s.OnlyChan (s.setChan c x) c :=
  ⟨⟨rfl, fun _ => rfl, rfl, rfl, rfl, rfl, rfl, rfl, rfl, rfl, rfl, rfl, rfl, rfl⟩,
    fun _ hd => State.chan_setChan_ne s hd x, rfl, rfl, rfl, rfl⟩

/-- Writing the executing channel and the slice in progress touches that channel alone. -/
theorem State.setCur_onlyChan (s : State) (x : Channel) (q : Sequencer) :
    s.OnlyChan { s.setCur x with seqr := q } s.seqr.chan :=
  ⟨⟨rfl, fun _ => rfl, rfl, rfl, rfl, rfl, rfl, rfl, rfl, rfl, rfl, rfl, rfl, rfl⟩,
    fun d hd => (State.chan_setCur s d x).trans (if_neg hd), rfl, rfl, rfl, rfl⟩

/-! ## The canonical memory of the placements -/

/-- The memory of the reset state has the canonical form. -/
theorem State.wf_mem_reset : State.reset.mem.wf = true := rfl

/-- Writing a list of bytes keeps the canonical form. -/
theorem wf_writes (l : List (Byte × Nat)) :
    ∀ m : Memory, m.wf = true → (l.foldl (fun m e => m.write e.2 e.1) m).wf = true := by
  induction l with
  | nil => exact fun _ h => h
  | cons e l ih => exact fun m h => ih _ (Memory.wf_write h e.2 e.1)

/-- Placing a table word keeps the canonical form. -/
theorem wf_placeCode {m : Memory} (h : m.wf = true) (w : Nat) : (placeCode w m).wf = true := wf_writes _ m h

/-! ## Runs -/

theorem run_succ_of_next {M : Host.Core} {k : Nat} {s u : M.State} (h : M.step s = .next u) :
    M.run (k + 1) s = M.run k u := by
  rw [Host.Core.run, h]

theorem run_succ_of_fault {M : Host.Core} {k : Nat} {s : M.State} {f : M.Fault} (h : M.step s = .fault f) :
    M.run (k + 1) s = .fault f := by
  rw [Host.Core.run, h]

end Sys2Proof.Machine
end

