-- ==== Sys2Proof/Tests/Slice0.lean ====
section
/-! SUPPORT. Named tests: words written out from the spec's tables, one step of each instruction with the values
of 95_test_vectors.md or worked out by hand from the rules, and for every statement with hypotheses a concrete
state that meets them. -/

open Sys2Proof Sys2Proof.Machine

namespace Sys2Proof.Tests

/-! ## Helpers -/

/-- The outcome is a next state of which `p` holds. -/
def nextAnd (r : Result) (p : State → Bool) : Bool :=
  match r with
  | .next s => p s
  | .fault _ => false
  | .refused _ => false

/-- The outcome is a next state. -/
def isNext (r : Result) : Bool := nextAnd r fun _ => true

/-- The next state, or the reset state where there is none. -/
def nextOf (r : Result) : State :=
  match r with
  | .next s => s
  | .fault _ => State.reset
  | .refused _ => State.reset

theorem eq_nextOf {r : Result} (h : isNext r = true) : r = .next (nextOf r) := by
  cases r <;> first | rfl | cases h

theorem exists_next {r : Result} (h : isNext r = true) : ∃ t, r = .next t := ⟨_, eq_nextOf h⟩

/-- The executing channel after one step from reset with a table word in place. -/
def ranWord (nbits w : Nat) (p : Channel → Bool) : Bool :=
  nextAnd (step (State.reset.withFetchWord nbits w)) fun t => p t.cur

/-- A small instance, one frame to a tick. -/
def demoPar : Config where
  memSize := 0x400
  outputRate := 44100
  fptQ16 := 65536
  wave := Config.referenceWave

/-- Samples at 0 (10 20 30 -128; the second loops over indices 1 and 2), instruments at 0x60, sequences at 0x80
(`INSTR 0; NOTE 2000; WAIT 4; END` and `JMP 0`), sounds at 0xA0 (the second with a sequence 9 that is missing). -/
def demoMem : Memory :=
  [(3, 0x40), (7, 4), (18, 0x56), (19, 0x22), (23, 0x40), (27, 4), (31, 1), (35, 2), (38, 0x56), (39, 0x22),
   (64, 10), (65, 20), (66, 30), (67, 0x80)]
  ++ [(98, 3), (99, 0xE8), (100, 0x40), (113, 1), (114, 3), (115, 0xE8), (116, 0x20), (117, 5), (118, 3),
   (120, 100), (121, 64), (122, 16), (123, 32)]
  ++ [(131, 0x90), (133, 8), (139, 0x98), (141, 3), (144, 2), (146, 1), (147, 7), (148, 0xD0), (149, 0x0A),
   (150, 4), (152, 0x0B)]
  ++ [(162, 0xFF), (163, 0xFF), (164, 0xFF), (165, 0xFF), (166, 0xFF), (167, 0xFF), (169, 9), (170, 0xFF),
   (171, 0xFF), (172, 0xFF), (173, 0xFF), (174, 0xFF), (175, 0xFF)]

/-- A channel that sounds instrument `i` at pitch 2000 and volume `v`. -/
def voice (i : Byte) (v : BitVec 7) : Channel :=
  { Channel.reset with
    st := .waiting, pc := 7, wait := 4, ins := i, insv := true, pitch := 2000, vol := v, gate := true }

/-- The data set above loaded: channel 0 about to run sequence 0, channel 1 sounding the plain sample, channel 2
the looping one, channel 3 idle. -/
def demo : State :=
  { State.reset with
    par := demoPar, mem := demoMem, loaded := true, dir := ⟨0, 2, 96, 2, 128, 2, 160, 2⟩,
    ch := ⟨{ Channel.reset with st := .running }, voice 0 64, voice 1 32, Channel.reset⟩,
    arg := #v[0, 2, 96, 2, 128, 2, 160, 2] }

/-- `demo` inside the slice of channel 0. -/
def demoSlice : State := demo.enterSlice 0

/-- `demo` with the host about to do one operation. -/
def demoHost (op : HostOp) : State := { demo with host := [op] }

/-! ## Well-formedness and decoding -/

theorem test_wf_refuses_an_assigned_byte_as_unknown : (Instr.unknown 0x0C).wellFormed = false := by decide

theorem test_wf_takes_the_first_and_last_unknown :
    (Instr.unknown 0x0D).wellFormed = true ∧ (Instr.unknown 0xFF).wellFormed = true := by decide

theorem test_decode_end : decode .stream [0x00] = .ok (.endSeq, 1) := by decide

theorem test_decode_note : decode .stream [0x01, 0x07, 0xD0] = .ok (.note 2000, 3) := by decide

theorem test_decode_instr : decode .stream [0x02, 0x09] = .ok (.instr 9, 2) := by decide

theorem test_decode_vol : decode .stream [0x03, 0x40] = .ok (.vol 64, 2) := by decide

theorem test_decode_voladd : decode .stream [0x04, 0xFB] = .ok (.voladd 0xFB, 2) := by decide

theorem test_decode_pitch : decode .stream [0x05, 0xFF, 0xFE] = .ok (.pitch 65534, 3) := by decide

theorem test_decode_vib : decode .stream [0x06, 0x64, 0x40] = .ok (.vib 100 64, 3) := by decide

theorem test_decode_viboff : decode .stream [0x07] = .ok (.viboff, 1) := by decide

theorem test_decode_trem : decode .stream [0x08, 0x10, 0x20] = .ok (.trem 16 32, 3) := by decide

theorem test_decode_tremoff : decode .stream [0x09] = .ok (.tremoff, 1) := by decide

theorem test_decode_wait : decode .stream [0x0A, 0xFF] = .ok (.wait 255, 2) := by decide

theorem test_decode_jmp : decode .stream [0x0B, 0x00, 0x0D] = .ok (.jmp 13, 3) := by decide

theorem test_decode_loop : decode .stream [0x0C, 0x03, 0x00, 0x04] = .ok (.loop 3 4, 4) := by decide

theorem test_decode_unknown :
    decode .stream [0x0D] = .ok (.unknown 0x0D, 1) ∧ decode .stream [0xF0, 1] = .ok (.unknown 0xF0, 1) ∧
      decode .stream [0xFF] = .ok (.unknown 0xFF, 1) := by decide

theorem test_decode_cut_instructions :
    decode .stream [0x01, 0x03] = .error .pastEnd ∧ decode .stream [0x0C, 0x03, 0x00] = .error .pastEnd ∧
      decode .stream [] = .error .pastEnd := by decide

theorem test_decode_commands :
    decode .cmd [0x01] = .ok (.load, 1) ∧ decode .cmd [0x02] = .ok (.start, 1) ∧
      decode .cmd [0x03] = .ok (.tick, 1) ∧ decode .cmd [0x04] = .ok (.render, 1) ∧
      decode .cmd [0x05] = .ok (.stop, 1) ∧ decode .cmd [0x06] = .ok (.runtick, 1) ∧
      decode .cmd [0x00] = .error (.badCommand 0x00) ∧ decode .cmd [0x07] = .error (.badCommand 0x07) := by
  decide

theorem test_table_words_of_both_ports :
    decodeTableWord 8 0x01 = some .load ∧ decodeTableWord 24 0xD00701 = some (.note 2000) ∧
      decodeTableWord 8 0x07 = some .viboff ∧ decodeTableWord 8 0x00 = some .endSeq ∧
      decodeTableWord 32 0x0400030C = some (.loop 3 4) ∧ decodeTableWord 8 0x80 = some (.unknown 0x80) := by
  decide

/-! ## One step of each bytecode instruction -/

/-- 44_flow.md R170. -/
theorem test_end : ranWord 8 0x00 (fun x => x.st == .stopped && x.stopc == .endExecuted && x.pc == 0) = true := by
  decide

/-- 95_test_vectors.md 2.2: bytes `01 07 D0`. -/
theorem test_note : ranWord 24 0xD00701 (fun x => x.pitch == 2000 && x.gate && x.pc == 3) = true := by decide

/-- 95_test_vectors.md 2.2: `NOTE 0` gives pitch 1. -/
theorem test_note_clamps : ranWord 24 0x000001 (fun x => x.pitch == 1 && x.pc == 3) = true := by decide

/-- 41_voice.md R132 with the second instrument's record: defvol 32, presets 100/64 and 16/32. -/
theorem test_instr :
    nextAnd (exec (.instr 1) demoSlice) (fun t =>
      t.cur.ins == 1 && t.cur.insv && t.cur.vol == 32 && t.cur.vdep == 100 && t.cur.vspd == 64 && t.cur.tdep == 16
        && t.cur.tspd == 32 && t.cur.pc == 2) = true := by decide

/-- 95_test_vectors.md 2.2 row 3, at offset 0: `INSTR 9` of a missing instrument. -/
theorem test_instr_not_found :
    ranWord 16 0x0902 (fun x => x.err == .notFound && x.errb == 9 && x.pc == 0 && x.stopc == .errorEvent) = true := by
  decide

/-- 95_test_vectors.md 2.3: `VOL 255`. -/
theorem test_vol_clamps : ranWord 16 0xFF03 (fun x => x.vol == 64 && x.pc == 2) = true := by decide

/-- 95_test_vectors.md 2.3: 3 - 5 saturates at 0 and 60 + 10 at 64. -/
theorem test_voladd_saturates :
    nextAnd (exec (.voladd 0xFB) (demoSlice.setCur { demoSlice.cur with vol := 3 })) (fun t => t.cur.vol == 0)
        = true ∧
      nextAnd (exec (.voladd 0x0A) (demoSlice.setCur { demoSlice.cur with vol := 60 })) (fun t => t.cur.vol == 64)
        = true := by decide

/-- 95_test_vectors.md 2.2: `PITCH 65535`; the gate stays. -/
theorem test_pitch : ranWord 24 0xFFFF05 (fun x => x.pitch == 65535 && !x.gate && x.pc == 3) = true := by decide

/-- 95_test_vectors.md 2.4: `VIB 100, 64` from a phase other than 0. -/
theorem test_vib :
    nextAnd (exec (.vib 100 64) (demoSlice.setCur { demoSlice.cur with vph := 9 })) (fun t =>
      t.cur.vdep == 100 && t.cur.vspd == 64 && t.cur.vph == 0 && t.cur.pc == 3) = true := by decide

/-- 43_effects.md R156. -/
theorem test_viboff :
    nextAnd (exec .viboff (demoSlice.setCur { demoSlice.cur with vdep := 1, vspd := 2, vph := 3, tph := 4 }))
      (fun t => t.cur.vdep == 0 && t.cur.vspd == 0 && t.cur.vph == 0 && t.cur.tph == 4 && t.cur.pc == 1) = true := by
  decide

/-- 95_test_vectors.md 2.4: `TREM 16, 32`. -/
theorem test_trem : ranWord 24 0x201008 (fun x => x.tdep == 16 && x.tspd == 32 && x.tph == 0 && x.pc == 3) = true := by
  decide

/-- 43_effects.md R158. -/
theorem test_tremoff :
    nextAnd (exec .tremoff (demoSlice.setCur { demoSlice.cur with tdep := 1, tspd := 2, tph := 3, vph := 4 }))
      (fun t => t.cur.tdep == 0 && t.cur.tspd == 0 && t.cur.tph == 0 && t.cur.vph == 4 && t.cur.pc == 1) = true := by
  decide

/-- 44_flow.md R166: `WAIT 0` goes on. -/
theorem test_wait_zero : ranWord 16 0x000A (fun x => x.st == .running && x.wait == 0 && x.pc == 2) = true := by decide

/-- 44_flow.md R166: `WAIT 255` blocks. -/
theorem test_wait : ranWord 16 0xFF0A (fun x => x.st == .waiting && x.wait == 255 && x.pc == 2) = true := by decide

/-- 44_flow.md R167: `JMP 13`. -/
theorem test_jmp : ranWord 24 0x0D000B (fun x => x.pc == 13 && x.st == .running) = true := by decide

/-- 95_test_vectors.md P3: the first arrival at `LOOP 3, 4`. -/
theorem test_loop_branches : ranWord 32 0x0400030C (fun x => x.lc == 2 && x.pc == 4) = true := by decide

/-- 44_flow.md R168: count 0 acts as 1. -/
theorem test_loop_falls_through : ranWord 32 0x0400000C (fun x => x.lc == 0 && x.pc == 4) = true := by decide

/-- 95_test_vectors.md 2.5: byte 0xF0 under the halt policy. -/
theorem test_unknown_halts :
    ranWord 8 0xF0 (fun x => x.err == .unknownOpcode && x.errb == 0xF0 && x.pc == 0 && x.stopc == .errorEvent)
      = true := by decide

/-- 95_test_vectors.md 2.5: the same under the skip policy. -/
theorem test_unknown_skips :
    nextAnd (exec (.unknown 0xF0) { demoSlice with unkskip := true }) (fun t =>
      t.cur.err == .unknownOpcode && t.cur.errb == 0xF0 && t.cur.pc == 1 && t.cur.st == .running) = true := by decide

/-! ## One step of each command -/

/-- 46_host_commands.md R212: the data set is accepted, the channels are reset. -/
theorem test_load :
    nextAnd (step (demoHost (.regWrite 0 1))) (fun t =>
      t.loaded && t.result == .ok && t.dir.insBase == 96 && t.chan 1 == Channel.reset) = true := by decide

/-- 95_test_vectors.md S7 (b): with one sample only, instrument 1 names sample 1, which is missing. -/
theorem test_load_error :
    nextAnd (exec .load { demo with arg := demo.arg.set 1 1 }) (fun t =>
      !t.loaded && t.result == .loadError && t.lderrRec == 1 && t.lderrRef == 1 && t.dir == Directory.zero) = true := by
  decide

/-- 46_host_commands.md R214: sound 0 puts sequence 0 on channel 0 alone. -/
theorem test_start :
    nextAnd (exec .start demo) (fun t =>
      (t.chan 0).st == .running && (t.chan 1).st == .idle && t.sndValid && t.result == .ok) = true := by decide

/-- 95_test_vectors.md 2.9: a sound with a missing sequence. -/
theorem test_start_not_found :
    nextAnd (exec .start { demo with arg := demo.arg.set 0 1 }) (fun t =>
      t.result == .notFound && t.chan 1 == demo.chan 1) = true := by decide

/-- 95_test_vectors.md P2: one tick runs `INSTR 0; NOTE 2000; WAIT 4`, and the waiting channel counts down. -/
theorem test_tick :
    nextAnd (step (demoHost (.regWrite 0 0x103))) (fun t =>
      (t.chan 0).st == .waiting && (t.chan 0).pc == 7 && (t.chan 0).wait == 4 && (t.chan 0).pitch == 2000
        && (t.chan 0).vol == 64 && (t.chan 1).wait == 3) = true := by decide

/-- 45_synth_mixer.md R189 and R194: step 1.0, so the frame sounds index 1 of both samples on the right:
20 * 64 + 20 * 32. -/
theorem test_render :
    nextAnd (exec .render { demo with arg := demo.arg.set 0 1 }) (fun t =>
      t.out == [0, 1920] && (t.chan 1).curi == 1 && (t.chan 2).curi == 1) = true := by decide

/-- 46_host_commands.md R222. -/
theorem test_stop :
    nextAnd (exec .stop demo) (fun t =>
      (t.chan 0).stopc == .hostStop && (t.chan 1).st == .stopped && (t.chan 3).st == .idle && !t.sndValid) = true := by
  decide

/-- 46_host_commands.md R226: with 1.5 frames to a tick and half a frame left over, two frames are due. -/
theorem test_runtick :
    nextAnd (exec .runtick { demo with par := { demoPar with fptQ16 := 98304, fptQ16_ok := by decide }, facc := 0x8000 })
      (fun t => t.arg[0] == 2 && t.facc == 0 && t.out.length == 4) = true := by decide

/-- 93_implementation_defined.md U1: a read beyond the memory is a fault that names the address. -/
theorem test_fault_names_the_address :
    memRead demo 0x3FF 2 = .error (.memRead 0x3FF 2) ∧ memRead demo 0x3FF 1 = .ok 0 := by decide

/-! ## Witnesses: a state that meets all the hypotheses of each statement -/

theorem test_witness_PlatformResetFromAnyState :
    (demoHost .reset).seqr.active = false ∧ (demoHost .reset).host = .reset :: [] := by decide

/-- The invariants hold in a state with channels playing. -/
theorem demo_inv : demo.Inv := by
  refine ⟨by decide, by decide, by decide, fun c => ?_, by decide, by decide, fun _ i hi r hr => ?_, by decide⟩
  · refine ⟨?_, ?_, ?_, ?_, ?_⟩ <;> revert c <;> decide
  · have h2 : i = 0 ∨ i = 1 := by
      have : demo.dir.insCnt.toNat = 2 := rfl
      omega
    rcases h2 with rfl | rfl
    · rw [show memRead demo (insAddr demo 0) 2 = .ok 0 by decide] at hr
      injection hr with hr
      subst hr
      decide
    · rw [show memRead demo (insAddr demo 1) 2 = .ok 1 by decide] at hr
      injection hr with hr
      subst hr
      decide

/-- The input contract holds there. -/
theorem demo_data : demo.DataInside := by
  refine ⟨by decide, by decide, by decide, by decide, fun k hk S hS => ?_, fun q hq S hS => ?_⟩
  · have h2 : k = 0 ∨ k = 1 := by
      have : demo.dir.smpCnt.toNat = 2 := rfl
      omega
    rcases h2 with rfl | rfl
    · rw [show readSample demo 0 = .ok ⟨64, 4, 0, 0, 22050⟩ by decide] at hS
      injection hS with hS
      subst hS
      decide
    · rw [show readSample demo 1 = .ok ⟨64, 4, 1, 2, 22050⟩ by decide] at hS
      injection hS with hS
      subst hS
      decide
  · have h2 : q = 0 ∨ q = 1 := by
      have : demo.dir.seqCnt.toNat = 2 := rfl
      omega
    rcases h2 with rfl | rfl
    · rw [show readSeq demo 0 = .ok ⟨144, 8⟩ by decide] at hS
      injection hS with hS
      subst hS
      decide
    · rw [show readSeq demo 1 = .ok ⟨152, 3⟩ by decide] at hS
      injection hS with hS
      subst hS
      decide

/-- The invariants do not see what the host will do next. -/
theorem demoHost_inv (op : HostOp) : (demoHost op).Inv := ⟨demo_inv.1, demo_inv.2, demo_inv.3, demo_inv.4, demo_inv.5,
  demo_inv.6, demo_inv.7, demo_inv.8⟩

theorem test_witness_EveryStepKeepsInvariants :
    (demoHost (.regWrite 0 3)).Inv ∧ ∃ t, step (demoHost (.regWrite 0 3)) = .next t :=
  ⟨demoHost_inv _, exists_next (by decide)⟩

theorem test_witness_DecodingAnEncodedInstructionGivesItBack :
    (Instr.loop 255 0xFFFF).wellFormed = true ∧ (Instr.unknown 0x0D).wellFormed = true ∧
      Instr.runtick.wellFormed = true := by decide

theorem test_witness_StreamDecodingReencodesTheBytesConsumed :
    decodeStream [0x0C, 0xFF, 0x12, 0x34, 0x56] = .ok (.loop 255 0x1234, 4) ∧
      decodeStream [0x0C, 0xFF, 0x12] = .error .pastEnd := by decide

theorem test_witness_UnknownOpcodesAreExactlyTheUnassignedBytes :
    0x0D ≤ (0x0D : Byte).toNat ∧ decodeStream [0x0D] = .ok (.unknown 0x0D, 1) ∧
      decodeStream [0x0C, 0, 0, 0] ≠ .ok (.unknown 0x0C, 1) := by decide

theorem test_witness_StepRunsTheInstructionAtThePc :
    demoSlice.seqr.active = true ∧ demoSlice.cur.st = .running ∧ (Bytecode.instr 0).toInstr.wellFormed = true ∧
      readSeq demoSlice demoSlice.cur.seq.toNat = .ok ⟨144, 8⟩ ∧
      demoSlice.cur.pc.toNat + (encode (Bytecode.instr 0).toInstr).length ≤ 8 ∧
      memReadBytes demoSlice (144 + demoSlice.cur.pc.toNat) (encode (Bytecode.instr 0).toInstr).length
        = .ok (encode (Bytecode.instr 0).toInstr) := by decide

/-- `demoSlice` with channel 0 at offset `pc`. -/
def demoAt (pc : Half) : State := demoSlice.setCur { demoSlice.cur with pc := pc }

theorem test_witness_FetchPastTheEndStopsTheChannel_at_the_end :
    (demoAt 8).seqr.active = true ∧ (demoAt 8).cur.st = .running ∧
      readSeq (demoAt 8) (demoAt 8).cur.seq.toNat = .ok ⟨144, 8⟩ ∧ 8 ≤ (demoAt 8).cur.pc.toNat := by decide

theorem test_witness_FetchPastTheEndStopsTheChannel_cut :
    let s := { demoAt 7 with mem := demoMem.write 151 0x02 }
    s.seqr.active = true ∧ s.cur.st = .running ∧ readSeq s s.cur.seq.toNat = .ok ⟨144, 8⟩ ∧
      s.cur.pc.toNat < 8 ∧ memReadByte s (144 + s.cur.pc.toNat) = .ok 0x02 ∧ 8 < s.cur.pc.toNat + ilen 0x02 := by
  decide

theorem test_witness_StepExecutesTheCommandWritten :
    (demoHost (.regWrite 0 0x103)).seqr.active = false ∧
      (demoHost (.regWrite 0 0x103)).host = .regWrite 0 0x103 :: [] ∧
      encode Command.tick.toInstr = [(0x103 : Word).extractLsb' 0 8] := by decide

theorem test_witness_BadCommandWritesResultOnly :
    (demoHost (.regWrite 0 0x100)).seqr.active = false ∧ (0x100 : Word).toNat % 256 = 0 ∧
      7 ≤ (7 : Word).toNat % 256 ∧ 7 ≤ (0xFF : Word).toNat % 256 := by decide

theorem test_witness_NothingHappensByItself :
    demo.seqr.active = false ∧ demo.host = [] ∧ (demo.enterSlice 1).seqr.active = true ∧
      (demo.enterSlice 1).cur.st ≠ .running := by decide

theorem test_witness_NoteSetsPitchOpensGateRestartsSample :
    demoSlice.cur.insv = false ∧ (demo.enterSlice 1).cur.insv = true := by decide

theorem test_witness_InstrSelectsAnExistingInstrument :
    (1 : Byte).toNat < demoSlice.dir.insCnt.toNat ∧
      readInstrument demoSlice (1 : Byte).toNat = .ok ⟨1, 1000, 32, 5, 3, 100, 64, 16, 32⟩ := by decide

theorem test_witness_InstrOfAMissingInstrumentHaltsTheChannel :
    demoSlice.dir.insCnt.toNat ≤ (2 : Byte).toNat := by decide

theorem test_witness_UnknownOpcodeIsRecordedThenHaltsOrSkips :
    0x0D ≤ (0x0D : Byte).toNat ∧ 0x0D ≤ (0xFF : Byte).toNat ∧ demoSlice.unkskip = false := by decide

/-- `demoSlice` with the transfer count at `n`. -/
def demoXfers (n : Fin 257) : State := { demoSlice with seqr := { demoSlice.seqr with xfers := n } }

theorem test_witness_JmpTransfersAndCounts : (demoXfers 255).seqr.xfers.val < 256 := by decide

theorem test_witness_LoopFallsThroughOrBranchesBack :
    1 = (if (demoXfers 255).cur.lc = 0 then (1 : Byte).toNat else (demoXfers 255).cur.lc.toNat) ∧
      2 = (if (demoXfers 255).cur.lc = 0 then (2 : Byte).toNat else (demoXfers 255).cur.lc.toNat) ∧
      (demoXfers 255).seqr.xfers.val < 256 := by decide

theorem test_witness_TheNextTransferAfter256RaisesRunawayLoop :
    (demoXfers 256).seqr.xfers.val = 256 ∧
      2 ≤ (if (demoXfers 256).cur.lc = 0 then (2 : Byte).toNat else (demoXfers 256).cur.lc.toNat) := by decide

theorem test_witness_BytecodeWritesOnlyItsOwnChannel :
    ∃ t, exec (Bytecode.instr 1).toInstr demoSlice = .next t := exists_next (by decide)

/-- Arrivals at `LOOP 2, 0`: the first, the second with the running count at 1, and later ones with it cleared. -/
def loopBefore (k : Nat) : State :=
  if k = 1 then (demoAt 4).setCur { (demoAt 4).cur with lc := 1 } else demoAt 4

/-- The counts 2 and, at the boundary, 0, which falls through at its one arrival. -/
theorem test_witness_LoopBranchesBackCountMinusOneTimes :
    ((loopBefore 0).cur.lc = 0 ∧
      (∀ k < max (2 : Byte).toNat 1, exec (.loop 2 0) (loopBefore k) = .next (nextOf (exec (.loop 2 0) (loopBefore k)))) ∧
      (∀ k < max (2 : Byte).toNat 1, (loopBefore k).seqr.xfers.val < 256) ∧
      ∀ k < max (2 : Byte).toNat 1,
        (loopBefore (k + 1)).cur.lc = (nextOf (exec (.loop 2 0) (loopBefore k))).cur.lc) ∧
    ((demoAt 4).cur.lc = 0 ∧ max (0 : Byte).toNat 1 = 1 ∧
      exec (.loop 0 0) (demoAt 4) = .next (nextOf (exec (.loop 0 0) (demoAt 4))) ∧ (demoAt 4).seqr.xfers.val < 256 ∧
      (demoAt 4).cur.lc = (nextOf (exec (.loop 0 0) (demoAt 4))).cur.lc) :=
  ⟨⟨by decide, fun k _ => eq_nextOf (by unfold loopBefore; split <;> decide), by decide, by decide⟩,
    by decide, by decide, eq_nextOf (by decide), by decide, by decide⟩

theorem test_witness_EverySliceEndsNotRunning :
    (∃ t, slice 0 demo = .next t) ∧ (demo.chan 0).st = .running := ⟨exists_next (by decide), by decide⟩

/-- `demo` with channel 0 on sequence 1, `JMP 0`. -/
def demoJump : State := demo.setChan 0 { demo.chan 0 with seq := 1 }

theorem test_witness_SelfJumpEndsInRunawayLoop :
    (demoJump.chan 0).st = .running ∧ readSeq demoJump (demoJump.chan 0).seq.toNat = .ok ⟨152, 3⟩ ∧
      (demoJump.chan 0).pc.toNat + 3 ≤ 3 ∧
      memReadBytes demoJump (152 + (demoJump.chan 0).pc.toNat) 3 =
        .ok [0x0B, (demoJump.chan 0).pc.extractLsb' 8 8, (demoJump.chan 0).pc.extractLsb' 0 8] := by decide

/-- The hypotheses of the statements about `TICK`, for every kind of channel at the boundary values of the wait:
channel 0 `RUNNING`, 1 and 2 `WAITING` with one and two ticks left, 3 `IDLE`. -/
def demoWait : State :=
  (demo.setChan 1 { demo.chan 1 with wait := 1, vph := 250, vspd := 10 }).setChan 2 { demo.chan 2 with wait := 2 }

theorem test_witness_TickTakesEachChannelByItsState :
    (∃ t, exec .tick demoWait = .next t) ∧ (demoWait.chan 3).st = .idle ∧ (demoWait.chan 2).st = .waiting ∧
      2 ≤ (demoWait.chan 2).wait.toNat ∧ (demoWait.chan 1).st = .waiting ∧ (demoWait.chan 1).wait.toNat = 1 ∧
      (demoWait.chan 0).st = .running := ⟨exists_next (by decide), by decide⟩

/-- 40_sequencer.md R113, R114: at the last tick of a wait the phase advances modulo 256 and the channel runs, here to
the `END` at offset 7. -/
theorem test_tick_ends_a_wait :
    nextAnd (exec .tick demoWait) (fun t =>
      (t.chan 1).vph == 4 && (t.chan 1).wait == 0 && (t.chan 1).st == .stopped && (t.chan 1).stopc == .endExecuted)
      = true := by decide

theorem test_witness_TickTouchesChannelsAndResultOnly : ∃ t, exec .tick demo = .next t := exists_next (by decide)

/-- `demo` with another volume on channel 0. -/
def demoLoud : State := demo.setChan 0 { demo.chan 0 with vol := 9 }

theorem test_witness_TickOfAChannelDependsOnItselfOnly :
    demo.AgreeOn demoLoud 1 ∧ demo.chan 0 ≠ demoLoud.chan 0 ∧ (∃ t, exec .tick demo = .next t) ∧
      ∃ t, exec .tick demoLoud = .next t :=
  ⟨⟨by decide, by decide, by decide, by decide, by decide⟩, by decide, exists_next (by decide),
    exists_next (by decide)⟩

/-- Channels 0 and 3 started together on one sequence. -/
def demoTwin : State := demo.setChan 3 (demo.chan 0)

theorem test_witness_EqualChannelsStayEqual :
    demoTwin.chan 0 = demoTwin.chan 3 ∧ (∃ t, exec .tick demoTwin = .next t) ∧
      (∃ t, exec .render { demoTwin with arg := demoTwin.arg.set 0 1 } = .next t) ∧
      ∃ t, exec .runtick demoTwin = .next t :=
  ⟨by decide, exists_next (by decide), exists_next (by decide), exists_next (by decide)⟩

theorem test_witness_OscillatorOffsetsModulatePitchAndVolume :
    demoPar.wave[(64 : Byte).toNat / 4] = 32 ∧ demoPar.wave[(192 : Byte).toNat / 4] = -32 ∧
      (demo.chan 1).vdep = 0 ∧ 1 ≤ (demo.chan 1).pitch.toNat ∧ (demo.chan 1).tdep = 0 ∧
      (demo.chan 1).vol.toNat ≤ 64 := by decide

/-- `demo` with channel 2 before its first note. -/
def demoMute : State := demo.setChan 2 { demo.chan 2 with gate := false }

theorem test_witness_SilentChannelsContributeTheirLevel :
    (demoMute.chan 3).st = .idle ∧ (demoMute.chan 0).insv = false ∧ (demoMute.chan 2).st = .waiting ∧
      (demoMute.chan 2).insv = true ∧ (demoMute.chan 2).gate = false ∧
      readInstrument demoMute (demoMute.chan 2).ins.toNat = .ok ⟨1, 1000, 32, 5, 3, 100, 64, 16, 32⟩ ∧
      readSample demoMute 1 = .ok ⟨64, 4, 1, 2, 22050⟩ := by decide

/-- `demo` with the cursors of the sounding channels at index `k`. -/
def demoCursor (k : Word) : State :=
  (demo.setChan 1 { demo.chan 1 with curi := k }).setChan 2 { demo.chan 2 with curi := k }

/-- The hypotheses that the two statements about a sounding frame share, at `demoCursor k`. -/
def soundsAt (k : Word) (c : Fin 4) (I : Instrument) (S : Sample) (cur : Nat) : Prop :=
  ((demoCursor k).chan c).sounding = true ∧
    readInstrument (demoCursor k) ((demoCursor k).chan c).ins.toNat = .ok I ∧
    readSample (demoCursor k) I.sample = .ok S ∧
    cur = ((demoCursor k).chan c).curi.toNat * 65536 + ((demoCursor k).chan c).curf.toNat
      + cursorStep (demoCursor k).par (effPitch (demoCursor k).par ((demoCursor k).chan c)) S.rate I.basePitch

/-- The advanced cursor reaches index 3, the loop's end, from 2, and lies below it from 1. -/
theorem test_witness_LoopingFrameWrapsIntoTheLoop :
    soundsAt 1 2 ⟨1, 1000, 32, 5, 3, 100, 64, 16, 32⟩ ⟨64, 4, 1, 2, 22050⟩ 131072 ∧
      soundsAt 2 2 ⟨1, 1000, 32, 5, 3, 100, 64, 16, 32⟩ ⟨64, 4, 1, 2, 22050⟩ 196608 ∧
      131072 < (1 + 2) * 65536 ∧ ¬ 196608 < (1 + 2) * 65536 ∧
      1 * 65536 + (196608 - 1 * 65536) % (2 * 65536) = 65536 :=
  ⟨⟨by decide, by decide, by decide, by decide⟩, ⟨by decide, by decide, by decide, by decide⟩, by decide⟩

/-- The memory in which the data of both samples begin two bytes before the end of `M`. -/
def farMem : Memory := [(2, 3), (3, 0xFE), (22, 3), (23, 0xFE)].foldl (fun m e => m.write e.1 e.2) demoMem

/-- 93_implementation_defined.md U1: index 1 is the last byte of `M`, index 2 the first beyond it, for the looping and
the plain sample. -/
theorem test_frames_at_the_end_of_the_memory :
    chanFrame { demoCursor 1 with mem := farMem } 2 = .error (.memRead 0x400 1) ∧
      chanFrame { demoCursor 1 with mem := farMem } 1 = .error (.memRead 0x400 1) ∧
      chanFrame { demoCursor 0 with mem := farMem } 1 = .ok (0, { (demoCursor 0).chan 1 with curi := 1 }) :=
  ⟨by decide, by decide, by decide⟩

/-- 45_synth_mixer.md R202: a loop that starts at index 2^32 - 1 takes the cursor to 2^32; the fetch there is beyond
every memory and faults with its address, not reduced. -/
theorem test_looping_cursor_beyond_32_bits_faults :
    chanFrame { demoCursor 0xFFFFFFFF with
        mem := [28, 29, 30, 31].foldl (fun m a => Memory.write m a 0xFF) demoMem } 2
      = .error (.memRead (64 + 2 ^ 32) 1) := by decide

/-- The two frames: 30 * 32 at index 2, and 20 * 32 at index 1 after the wrap. -/
theorem test_looping_frames :
    chanFrame (demoCursor 1) 2 = .ok (960, { (demoCursor 1).chan 2 with curi := 2 }) ∧
      chanFrame (demoCursor 2) 2 = .ok (640, { (demoCursor 2).chan 2 with curi := 1, looped := true }) :=
  ⟨by decide, by decide⟩

/-- The advanced cursor is 4.0, the end, from index 3, and below it from 2. -/
theorem test_witness_NonLoopingFrameStopsExactlyAtTheEnd :
    soundsAt 2 1 ⟨0, 1000, 64, 0, 0, 0, 0, 0, 0⟩ ⟨64, 4, 0, 0, 22050⟩ 196608 ∧
      soundsAt 3 1 ⟨0, 1000, 64, 0, 0, 0, 0, 0, 0⟩ ⟨64, 4, 0, 0, 22050⟩ 262144 ∧
      196608 < 4 * 65536 ∧ 4 * 65536 ≤ 262144 ∧ 64 + 196608 / 65536 < (demoCursor 2).par.memSize :=
  ⟨⟨by decide, by decide, by decide, by decide⟩, ⟨by decide, by decide, by decide, by decide⟩, by decide, by decide,
    by decide⟩

/-- 95_test_vectors.md 2.7: a plain quotient, and one that saturates. -/
theorem test_witness_CursorStepIsTheExactQuotientSaturated :
    cursorStep demoPar 2000 22050 1000 = 65536 ∧
      cursorStep { demoPar with outputRate := 1, outputRate_ok := by decide } 65535 4294967295 0 = 2 ^ 32 - 1 :=
  ⟨by decide, by decide⟩

theorem test_witness_ContributionsStayInRange :
    chanFrame (demoCursor 1) 2 = .ok (960, { (demoCursor 1).chan 2 with curi := 2 }) := by decide

/-- `demo` after `k` frames. -/
def demoFrames : Nat → State
  | 0 => { demo with arg := demo.arg.set 0 2 }
  | k + 1 => nextOf (frame (demoFrames k))

theorem test_witness_RenderIsItsFramesOneAfterTheOther :
    demo.arg[0] = 0 ∧ (∃ t, exec .render { demo with arg := demo.arg.set 0 2 } = .next t) ∧
      (demoFrames 0).arg[0].toNat = 2 ∧ frame (demoFrames 0) = .next (demoFrames 1) ∧
      frame (demoFrames 1) = .next (demoFrames 2) :=
  ⟨by decide, exists_next (by decide), by decide, eq_nextOf (by decide), eq_nextOf (by decide)⟩

/-- 45_synth_mixer.md R200: the second frame goes on from the first one's cursors, 30 * 64 + 30 * 32 at index 2. -/
theorem test_render_two_frames :
    nextAnd (exec .render (demoFrames 0)) (fun t =>
      t.out == [0, 1920, 0, 2880] && (t.chan 1).curi == 2 && (t.chan 2).curi == 2) = true := by decide

/-- Channels 0 and 3 without an instrument, channels 1 and 2 before their first note: levels 0, 0, 5, 0. -/
def demoSilent : State := demoMute.setChan 1 { demo.chan 1 with gate := false }

/-- The silent channels, with the level 5 of channel 2. -/
theorem test_witness_FrameAppendsTheExactSums :
    ∀ c, chanFrame demoSilent c = .ok ((if c = 2 then 5 else 0 : Int), demoSilent.chan c) := by decide

theorem test_witness_SilenceRendersAConstantLevel :
    chanFrame demoSilent 0 = .ok (0, demoSilent.chan 0) ∧ chanFrame demoSilent 1 = .ok (0, demoSilent.chan 1) ∧
      chanFrame demoSilent 2 = .ok (5, demoSilent.chan 2) ∧ chanFrame demoSilent 3 = .ok (0, demoSilent.chan 3) := by
  decide

theorem test_witness_CommandsCompleteOnContractData : demo.Inv ∧ demo.DataInside := ⟨demo_inv, demo_data⟩

theorem test_witness_LoadAcceptsDataWithoutDanglingReferences :
    ∀ i < demo.arg[3].toNat % 65536, demo.arg[2].toNat + 16 * i + 2 ≤ demo.par.memSize ∧
      demo.mem.value (demo.arg[2].toNat + 16 * i) 2 < demo.arg[1].toNat % 65536 := by decide

/-- `demo` about to load one sample only: instrument 1 names sample 1. -/
def demoDangling : State := { demo with arg := demo.arg.set 1 1 }

theorem test_witness_LoadReportsTheLowestDanglingReference :
    1 < demoDangling.arg[3].toNat % 65536 ∧
      (∀ j ≤ 1, demoDangling.arg[2].toNat + 16 * j + 2 ≤ demoDangling.par.memSize) ∧
      (∀ j < 1, demoDangling.mem.value (demoDangling.arg[2].toNat + 16 * j) 2 < demoDangling.arg[1].toNat % 65536) ∧
      demoDangling.arg[1].toNat % 65536 ≤ demoDangling.mem.value (demoDangling.arg[2].toNat + 16 * 1) 2 := by decide

theorem test_witness_StartAssignsTheSoundsSequences :
    let q : Fin 4 → Nat := fun c => if c = 0 then 0 else 0xFFFF
    demo.arg[0].toNat % 65536 < demo.dir.sndCnt.toNat ∧
      (∀ c : Fin 4, readSound demo (demo.arg[0].toNat % 65536) c.val = .ok (q c)) ∧
      ∀ c, q c = 0xFFFF ∨ q c < demo.dir.seqCnt.toNat := by decide

theorem test_witness_FailedStartWritesResultOnly :
    let q : Fin 4 → Nat := fun c => if c = 0 then 9 else 0xFFFF
    let s := { demo with arg := demo.arg.set 0 1 }
    demo.dir.sndCnt.toNat ≤ ({ demo with arg := demo.arg.set 0 2 } : State).arg[0].toNat % 65536 ∧
      (∀ c : Fin 4, readSound s (s.arg[0].toNat % 65536) c.val = .ok (q c)) ∧
      ∃ c, q c ≠ 0xFFFF ∧ s.dir.seqCnt.toNat ≤ q c := by decide

theorem test_witness_RuntickIsTickThenRenderOfTheFramesDue :
    ∃ u t, exec .tick demo = .next u ∧ 1 = (demo.facc.toNat + demo.par.fptQ16) / 65536 ∧
      exec .render { u with
        facc := BitVec.ofNat 16 ((demo.facc.toNat + demo.par.fptQ16) % 65536),
        arg := u.arg.set 0 (BitVec.ofNat 32 1) } = .next t :=
  ⟨nextOf (exec .tick demo), _, eq_nextOf (by decide), by decide, eq_nextOf (by decide)⟩

/-- `demo` after `k` commands `RUNTICK`. -/
def demoRuns : Nat → State
  | 0 => demo
  | k + 1 => nextOf (exec .runtick (demoRuns k))

theorem test_witness_RuntickPacingDoesNotDrift :
    ∀ k < 2, exec .runtick (demoRuns k) = .next (demoRuns (k + 1)) := by
  intro k hk
  have h : k = 0 ∨ k = 1 := by omega
  rcases h with rfl | rfl
  · exact eq_nextOf (by decide)
  · exact eq_nextOf (by decide)

/-- Every clause: a command, codes that are none, `CFG`, the first and the last argument, and registers that
ignore the write. -/
theorem test_witness_RegisterWritesReachCfgAndArgOnly :
    encode Command.tick.toInstr = [(0x103 : Word).extractLsb' 0 8] ∧
      encode Command.runtick.toInstr = [(6 : Word).extractLsb' 0 8] ∧
      (0x100 : Word).toNat % 256 = 0 ∧ 7 ≤ (7 : Word).toNat % 256 ∧
      (demoHost (.regWrite 0 7)).seqr.active = false ∧ (demoHost (.regWrite 0 7)).host = .regWrite 0 7 :: [] ∧
      ∀ n ∈ [(2 : Byte), 8, 15, 16, 7, 255], (demoHost (.regWrite n 3)).seqr.active = false ∧
      (demoHost (.regWrite n 3)).host = .regWrite n 3 :: [] ∧ n.toNat ≠ 0 := by decide

theorem test_witness_GlobalRegistersShowTheState :
    (demoHost (.regRead 3)).seqr.active = false ∧ (demoHost (.regRead 3)).host = .regRead 3 :: [] ∧
      (demoHost (.regWrite 3 0xFF)).host = .regWrite 3 0xFF :: [] ∧
      ∀ n ∈ [(0 : Byte), 1, 2, 4, 7, 8, 15, 0x10, 0x17, 0x18, 0x1F, 0x60, 0xFF],
        n.toNat ≠ 3 ∧ (n.toNat < 0x20 ∨ 0x60 ≤ n.toNat) := by decide

/-- 10_state.md R42 on the demonstration state: `ACTIVE` and `LOADED`, a directory base and count, an argument. -/
theorem test_global_registers :
    regRead demo 3 = 3 ∧ regRead demo 0x12 = 96 ∧ regRead demo 0x13 = 2 ∧ regRead demo 0x0A = 96 ∧
      regRead { demo with lderrRec := 1, lderrRef := 2 } 4 = 0x20001 ∧
      regRead { demo with sndId := 5, sndValid := true } 5 = 0x10005 := by decide

theorem test_witness_ChannelRegistersShowTheirFields :
    (0x20 : Byte).toNat = 0x20 + 0x10 * (0 : Fin 4).val + (0 : Fin 16).val ∧
      (0x5F : Byte).toNat = 0x20 + 0x10 * (3 : Fin 4).val + (15 : Fin 16).val ∧
      (demoHost (.regWrite 0x23 9)).seqr.active = false ∧
      (demoHost (.regWrite 0x23 9)).host = .regWrite 0x23 9 :: [] := by decide

/-- The last byte of the memory, and the first beyond it. -/
theorem test_witness_MemoryPortWritesAndReadsOneByte :
    demo.seqr.active = false ∧ demo.mem.wf = true ∧ (0x3FF : Word).toNat < demo.par.memSize ∧
      demo.par.memSize ≤ (0x400 : Word).toNat ∧
      (demoHost (.memWrite 0x3FF 7)).host = .memWrite 0x3FF 7 :: [] ∧
      (demoHost (.memReadHost 0x400)).host = .memReadHost 0x400 :: [] := by decide

theorem test_witness_MemReadIsBigEndianAndBounded :
    0x3FF + 1 ≤ demo.par.memSize ∧ 0x3FE + 2 ≤ demo.par.memSize ∧ 0x3FC + 4 ≤ demo.par.memSize ∧
      demo.par.memSize < 0x3FD + 4 ∧ memRead demo 16 4 = .ok 0x5622 := by decide

/-- The last record of each table, an unassigned channel of a sound, the last byte of `M`, and an amplitude. -/
theorem test_witness_RecordsAreTheBytesAtTheirOffsets :
    readSample demo 1 = .ok ⟨64, 4, 1, 2, 22050⟩ ∧
      readInstrument demo 1 = .ok ⟨1, 1000, 32, 5, 3, 100, 64, 16, 32⟩ ∧ readSeq demo 1 = .ok ⟨152, 3⟩ ∧
      readSound demo 1 (0 : Fin 4) = .ok 9 ∧ readSound demo 0 (3 : Fin 4) = .ok 0xFFFF ∧
      memReadBytes demo 0x3FF 1 = .ok [0] ∧ readAmp demo ⟨64, 4, 1, 2, 22050⟩ 3 = .ok (-128) := by decide

theorem test_witness_OnlyTheHostWritesMemory :
    (nextOf (step (demoHost (.memWrite 0 1)))).mem ≠ (demoHost (.memWrite 0 1)).mem ∧
      (∃ t, step (demoHost (.memWrite 0 1)) = .next t) ∧ (∃ t, step (demoHost (.memWrite 0 0)) = .next t) ∧
      (demoHost (.memWrite 0 0)).seqr.active = false ∧ (demoHost (.memWrite 0 0)).host = .memWrite 0 0 :: [] ∧
      (nextOf (step (demoHost (.memWrite 0 0)))).mem = demo.mem ∧ (∃ t, step (demoHost (.regWrite 0 4)) = .next t) ∧
      (∀ a v rest, (demoHost (.regWrite 0 4)).host ≠ .memWrite a v :: rest) ∧
      ∀ rest, (demoHost (.regWrite 0 4)).host ≠ .reset :: rest := by
  refine ⟨by decide, exists_next (by decide), exists_next (by decide), by decide, by decide, by decide,
    exists_next (by decide), ?_, ?_⟩
  · intro a v rest h
    injection h with h
    cases h
  · intro rest h
    injection h with h
    cases h

theorem test_witness_StoppedIsTerminalUntilAChanReset :
    let s := { demoHost (.regWrite 0 2) with ch := ⟨Channel.reset, voice 0 64, voice 1 32, Channel.reset⟩ }
    (∃ t, step s = .next t) ∧ (s.chan 0).st = .idle ∧ (nextOf (step s)).chan 0 ≠ s.chan 0 ∧
      ((nextOf (step s)).chan 0).st ≠ (s.chan 0).st :=
  ⟨exists_next (by decide), by decide, by decide, by decide⟩

end Sys2Proof.Tests
end

/-! ## The host register file (10_state.md R41 to R43)

The two ports of the register file, the fields of each register, and the two obligations on them. -/

namespace Sys2Proof.Machine

/-! ### Fields of a word -/

/-- Two fields side by side, as a number. -/
theorem toNat_append_eq_add {v w : Nat} (x : BitVec v) (y : BitVec w) :
    (x ++ y).toNat = x.toNat * 2 ^ w + y.toNat := by
  rw [BitVec.toNat_append, ← Nat.shiftLeft_add_eq_or_of_lt y.isLt, Nat.shiftLeft_eq]

@[simp] theorem flagBit_toNat (b : Bool) : (flagBit b).toNat = if b = true then 1 else 0 := by
  cases b <;> rfl

@[simp] theorem flagBit_getLsbD_zero (b : Bool) : (flagBit b).getLsbD 0 = b := by
  cases b <;> rfl

/-- A word with one bit at its low end, bit by bit. -/
theorem getLsbD_append_bit {v : Nat} (x : BitVec v) (y : BitVec 1) (i : Nat) :
    (x ++ y).getLsbD i = if i = 0 then y.getLsbD 0 else x.getLsbD (i - 1) := by
  rw [BitVec.getLsbD_append]
  by_cases h : i = 0
  · rw [if_pos (by omega), if_pos h, h]
  · rw [if_neg (by omega), if_neg h]

@[simp] theorem halfWord_toNat (v : Half) : (halfWord v).toNat = v.toNat :=
  (toNat_append_eq_add (0 : Half) v).trans (by simp)

theorem cfgWord_toNat (s : State) :
    (cfgWord s).toNat = (if s.unkskip = true then 1 else 0) + (if s.mono = true then 2 else 0) := by
  refine (toNat_append_eq_add _ _).trans ?_
  simp only [toNat_append_eq_add, flagBit_toNat]
  split <;> split <;> rfl

/-! ### Reads and writes at the port -/

theorem regRead_of_global (s : State) {n : Byte} (h : n.toNat < 0x20) : regRead s n = globalWord s n.toNat :=
  if_pos h

theorem regRead_of_reserved (s : State) {n : Byte} (h : 0x60 ≤ n.toNat) : regRead s n = 0 := by
  unfold regRead
  rw [if_neg (by omega), if_neg (by omega)]

/-- The number of a channel register names its channel and its place (R43). -/
theorem regRead_of_channel (s : State) {n : Byte} {c : Fin 4} {k : Fin 16}
    (h : n.toNat = 0x20 + 0x10 * c.val + k.val) : regRead s n = channelWord (s.chan c) k.val := by
  have hc : Fin.ofNat 4 ((n.toNat - 0x20) / 16) = c := Fin.ext (by rw [Fin.val_ofNat]; omega)
  have hk : n.toNat % 16 = k.val := by omega
  unfold regRead
  rw [if_neg (by omega), if_pos (by omega), hc, hk]

/-- Only `CFG` and the `ARGk` are written (R231). -/
theorem regWrite_of_readOnly {n : Byte} (h2 : n.toNat ≠ 2) (ha : n.toNat < 8 ∨ 0x10 ≤ n.toNat) (v : Word)
    (s : State) : regWrite n v s = s := by
  unfold regWrite
  rw [if_neg h2, dif_neg (by omega)]

/-- Between commands a step serves the host's next operation. -/
theorem step_of_host {s : State} {op : HostOp} {rest : List HostOp} (ha : s.seqr.active = false)
    (hh : s.host = op :: rest) : step s = serve op { s with host := rest } := by
  simp [step, stepHost, ha, hh]

theorem step_regRead {s : State} {n : Byte} {rest : List HostOp} (ha : s.seqr.active = false)
    (hh : s.host = .regRead n :: rest) : step s = .next { s with host := rest, rdata := regRead s n } :=
  step_of_host ha hh

/-- A write to a register that is neither `CMD`, `CFG` nor an `ARGk` is ignored (R41, R43, R231). -/
theorem step_regWrite_of_readOnly {s : State} {n : Byte} {v : Word} {rest : List HostOp}
    (h0 : n.toNat ≠ 0) (h2 : n.toNat ≠ 2) (hn : n.toNat < 8 ∨ 0x10 ≤ n.toNat) (ha : s.seqr.active = false)
    (hh : s.host = .regWrite n v :: rest) : step s = .next { s with host := rest } := by
  rw [step_of_host ha hh, serve, if_neg h0, regWrite_of_readOnly h2 hn]

/-! ### `STATUS` (R41) -/

theorem Channel.live_iff (x : Channel) : x.live = true ↔ x.st = .running ∨ x.st = .waiting := by
  cases h : x.st <;> simp [Channel.live, h]

theorem State.active_iff (s : State) : s.active = true ↔ ∃ c, (s.chan c).live = true := by
  simp [State.active, Fin.exists_fin_succ, or_assoc]

/-- `ACTIVE` shows whether some channel is `RUNNING` or `WAITING`. -/
theorem State.active_eq_decide (s : State) :
    s.active = decide (∃ c, (s.chan c).st = .running ∨ (s.chan c).st = .waiting) := by
  rw [Bool.eq_iff_iff, State.active_iff, decide_eq_true_iff]
  exact exists_congr fun c => (s.chan c).live_iff

/-- The bits of `STATUS`, low to high. -/
theorem statusWord_getLsbD (s : State) (i : Nat) : (statusWord s).getLsbD i =
    if i = 0 then s.loaded
    else if i = 1 then s.active
    else if i = 2 then s.sndValid
    else if h : 4 ≤ i ∧ i < 8 then (s.chan ⟨i - 4, by omega⟩).errFlag
    else false := by
  refine (getLsbD_append_bit _ _ i).trans ?_
  simp only [getLsbD_append_bit, flagBit_getLsbD_zero]
  match i with
  | 0 | 1 | 2 | 3 | 4 | 5 | 6 | 7 => rfl
  | i + 8 => simp

/-! ### The other global registers (R42) -/

/-- `CMD` and the reserved global numbers read 0. -/
theorem globalWord_of_reserved (s : State) {k : Nat} (h : k = 0 ∨ k = 7 ∨ 0x18 ≤ k) : globalWord s k = 0 := by
  rcases h with rfl | rfl | h
  · rfl
  · rfl
  · obtain ⟨j, rfl⟩ := Nat.exists_eq_add_of_le' h
    rfl

/-- `RESULT` and its code. -/
theorem globalWord_result (s : State) : (globalWord s 1).toNat = s.result.code.toNat :=
  (toNat_append_eq_add _ _).trans (by simp)

/-- `LDERR`: the record below, the reference above. -/
theorem globalWord_lderr (s : State) : (globalWord s 4).toNat = s.lderrRec.toNat + s.lderrRef.toNat * 65536 :=
  (toNat_append_eq_add _ _).trans (Nat.add_comm _ _)

/-- `SOUND`: the number below, its valid flag above. -/
theorem globalWord_sound (s : State) :
    (globalWord s 5).toNat = s.sndId.toNat + (if s.sndValid = true then 65536 else 0) := by
  refine (toNat_append_eq_add _ _).trans ?_
  rw [toNat_append_eq_add, flagBit_toNat]
  split <;> simp [Nat.add_comm]

theorem globalWord_toNat (s : State) {k : Nat} (h3 : k ≠ 3) : (globalWord s k).toNat =
    if k = 1 then s.result.code.toNat
    else if k = 2 then (if s.unkskip = true then 1 else 0) + (if s.mono = true then 2 else 0)
    else if k = 4 then s.lderrRec.toNat + s.lderrRef.toNat * 65536
    else if k = 5 then s.sndId.toNat + (if s.sndValid = true then 65536 else 0)
    else if k = 6 then s.facc.toNat
    else if h : 8 ≤ k ∧ k < 0x10 then (s.arg[k - 8]'(by omega)).toNat
    else if k = 0x10 then s.dir.smpBase.toNat
    else if k = 0x11 then s.dir.smpCnt.toNat
    else if k = 0x12 then s.dir.insBase.toNat
    else if k = 0x13 then s.dir.insCnt.toNat
    else if k = 0x14 then s.dir.seqBase.toNat
    else if k = 0x15 then s.dir.seqCnt.toNat
    else if k = 0x16 then s.dir.sndBase.toNat
    else if k = 0x17 then s.dir.sndCnt.toNat
    else 0 := by
  match k with
  | 1 => exact globalWord_result s
  | 2 => exact cfgWord_toNat s
  | 3 => exact absurd rfl h3
  | 4 => exact globalWord_lderr s
  | 5 => exact globalWord_sound s
  | 6 => exact halfWord_toNat s.facc
  | 0x11 => exact halfWord_toNat s.dir.smpCnt
  | 0x13 => exact halfWord_toNat s.dir.insCnt
  | 0x15 => exact halfWord_toNat s.dir.seqCnt
  | 0x17 => exact halfWord_toNat s.dir.sndCnt
  | 8 | 9 | 10 | 11 | 12 | 13 | 14 | 15 | 0x10 | 0x12 | 0x14 | 0x16 => rfl
  | 0 | 7 => rfl
  | k + 24 =>
    rw [globalWord_of_reserved s (by omega)]
    simp

/-! ### The channel registers (R43) -/

theorem threeBytes_toNat (a b c : Byte) :
    ((0 : Byte) ++ a ++ b ++ c).toNat = c.toNat + b.toNat * 256 + a.toNat * 65536 := by
  simp only [toNat_append_eq_add, BitVec.ofNat_eq_ofNat, BitVec.toNat_ofNat]
  omega

/-- Channel register 0: `st`, the flags and `stopc`. -/
theorem channelWord_zero (x : Channel) : (channelWord x 0).toNat =
    x.st.code.toNat + (if x.gate = true then 4 else 0) + (if x.insv = true then 8 else 0)
      + (if x.looped = true then 16 else 0) + x.stopc.code.toNat * 256 := by
  refine (toNat_append_eq_add _ _).trans ?_
  simp only [toNat_append_eq_add, flagBit_toNat, BitVec.ofNat_eq_ofNat, BitVec.toNat_ofNat]
  split_ifs <;> omega

/-- Channel register 2: the wait and the loop counter. -/
theorem channelWord_two (x : Channel) : (channelWord x 2).toNat = x.wait.toNat + x.lc.toNat * 256 := by
  refine (toNat_append_eq_add _ _).trans ?_
  simp only [toNat_append_eq_add, BitVec.ofNat_eq_ofNat, BitVec.toNat_ofNat]
  omega

/-- Channel register 3: the pitch, the volume and the instrument. -/
theorem channelWord_three (x : Channel) : (channelWord x 3).toNat =
    x.pitch.toNat + x.vol.toNat * 65536 + x.ins.toNat * 16777216 := by
  refine (toNat_append_eq_add _ _).trans ?_
  simp only [toNat_append_eq_add, BitVec.ofNat_eq_ofNat, BitVec.toNat_ofNat]
  omega

/-- Channel register 8: the error latches. -/
theorem channelWord_eight (x : Channel) : (channelWord x 8).toNat =
    x.err.code.toNat + x.errb.toNat * 256 + x.errpc.toNat * 65536 := by
  refine (toNat_append_eq_add _ _).trans ?_
  simp only [toNat_append_eq_add, BitVec.ofNat_eq_ofNat, BitVec.toNat_ofNat]
  omega

/-- Every channel register as a number, by its place `k`. -/
theorem channelWord_toNat (x : Channel) (k : Nat) : (channelWord x k).toNat =
    if k = 0 then
      x.st.code.toNat + (if x.gate = true then 4 else 0) + (if x.insv = true then 8 else 0)
        + (if x.looped = true then 16 else 0) + x.stopc.code.toNat * 256
    else if k = 1 then x.pc.toNat + x.seq.toNat * 65536
    else if k = 2 then x.wait.toNat + x.lc.toNat * 256
    else if k = 3 then x.pitch.toNat + x.vol.toNat * 65536 + x.ins.toNat * 16777216
    else if k = 4 then x.curi.toNat
    else if k = 5 then x.curf.toNat
    else if k = 6 then x.vdep.toNat + x.vspd.toNat * 256 + x.vph.toNat * 65536
    else if k = 7 then x.tdep.toNat + x.tspd.toNat * 256 + x.tph.toNat * 65536
    else if k = 8 then x.err.code.toNat + x.errb.toNat * 256 + x.errpc.toNat * 65536
    else 0 := by
  match k with
  | 0 => exact channelWord_zero x
  | 1 => exact (toNat_append_eq_add x.seq x.pc).trans (Nat.add_comm _ _)
  | 2 => exact channelWord_two x
  | 3 => exact channelWord_three x
  | 4 => rfl
  | 5 => exact halfWord_toNat x.curf
  | 6 => exact threeBytes_toNat x.vph x.vspd x.vdep
  | 7 => exact threeBytes_toNat x.tph x.tspd x.tdep
  | 8 => exact channelWord_eight x
  | k + 9 => simp [channelWord]

/-- A channel register after reset: 0, but `pitch` is 1 (R30, R43). -/
theorem channelWord_reset (k : Fin 16) : channelWord Channel.reset k.val = if k.val = 3 then 1 else 0 := by
  revert k
  decide

/-! ### The obligations -/

/-- Settles O54: the bits of `STATUS`, then the numbers of the other global registers, then the two ports. -/
theorem globalRegistersShowTheState : Obligations.GlobalRegistersShowTheState := by
  refine ⟨fun s i => ?status, by decide, fun s v rest ha hh => ?write, fun s n h3 hn => ?read, by decide,
    fun s n rest ha hh => step_regRead ha hh⟩
  case status =>
    rw [regRead_of_global s (by decide), ← s.active_eq_decide]
    exact statusWord_getLsbD s i
  case write => exact step_regWrite_of_readOnly (by decide) (by decide) (by decide) ha hh
  case read =>
    rw [← globalWord_toNat s h3]
    rcases hn with hlo | hhi
    · rw [regRead_of_global s hlo]
    · rw [regRead_of_reserved s hhi, globalWord_of_reserved s (by omega)]

/-- Settles O55: the number of the register names its channel and its place, whose fields are those of the map. -/
theorem channelRegistersShowTheirFields : Obligations.ChannelRegistersShowTheirFields := by
  refine ⟨by decide, by decide, by decide, fun s c k n hn => ⟨?reset, fun v rest ha hh => ?write, ?read⟩⟩
  case reset =>
    have hchan : State.reset.chan c = Channel.reset := Channels.get_reset c
    rw [regRead_of_channel State.reset hn, hchan, channelWord_reset]
  case write => exact step_regWrite_of_readOnly (by omega) (by omega) (by omega) ha hh
  case read =>
    rw [regRead_of_channel s hn]
    exact channelWord_toNat (s.chan c) k.val

end Sys2Proof.Machine

/-! ## Reads of the memory (20_memory.md R62)

The big-endian value of a few bytes in terms of those bytes, and the fault of a read that leaves the memory. -/

namespace Sys2Proof.Machine

/-- One byte more: the bytes before it are the more significant ones. -/
theorem Memory.value_succ (m : Memory) (a n : Nat) :
    m.value a (n + 1) = m.value a n * 256 + (m.read (a + n)).toNat := rfl

/-- `BE16` of the bytes in memory (R12). -/
theorem Memory.value_two (m : Memory) (a : Nat) :
    m.value a 2 = (m.read a).toNat * 256 + (m.read (a + 1)).toNat := by
  rw [Memory.value_succ, Memory.value_one]

/-- `BE32` of the bytes in memory (R12). -/
theorem Memory.value_four (m : Memory) (a : Nat) :
    m.value a 4 = (((m.read a).toNat * 256 + (m.read (a + 1)).toNat) * 256 + (m.read (a + 2)).toNat) * 256
      + (m.read (a + 3)).toNat := by
  rw [Memory.value_succ, Memory.value_succ, Memory.value_two]

/-- The fault of `MemRead` (U1): only a read that reaches beyond the memory, and it names that read. -/
theorem memRead_eq_error {s : State} {a n : Nat} {f : Fault} :
    memRead s a n = .error f ↔ s.par.memSize < a + n ∧ f = .memRead a n := by
  unfold memRead
  split
  case isTrue hin => simp [hin]
  case isFalse hout => simp [Nat.lt_of_not_le hout, eq_comm]

/-- Settles O57: inside the memory a read answers the value of its bytes, written out for each width. -/
theorem memReadIsBigEndianAndBounded : Obligations.MemReadIsBigEndianAndBounded := by
  refine fun s a => ⟨fun hin => ?byte, fun hin => ?half, fun hin => ?word, fun n hout => ?beyond⟩
  case byte => exact memRead_eq_ok.mpr ⟨hin, (s.mem.value_one a).symm⟩
  case half => exact memRead_eq_ok.mpr ⟨hin, (s.mem.value_two a).symm⟩
  case word => exact memRead_eq_ok.mpr ⟨hin, (s.mem.value_four a).symm⟩
  case beyond => exact memRead_eq_error.mpr ⟨hout, rfl⟩

end Sys2Proof.Machine

/-! ## The stream decoder (30_encoding.md R92, R95, R97, R98)

What the opcode byte alone decides: the length, and whether the variant is `Unknown`. -/

namespace Sys2Proof.Machine

/-- A byte outside the thirteen assigned ones is an instruction on its own (R92, R98). -/
theorem ilen_of_unassigned {op : Byte} (hop : 0x0D ≤ op.toNat) : ilen op = 1 := by
  obtain ⟨-, -, -, hlength⟩ := Laws.EncodeLength.unknown op
  exact (hlength rfl (decide_eq_true hop)).symm

/-- R97, R98: `Unknown` is selected by the unassigned bytes alone, and it names the byte. -/
theorem variant_eq_unknown_iff {op b1 b2 b3 u : Byte} :
    variant op b1 b2 b3 = .unknown u ↔ 0x0D ≤ op.toNat ∧ u = op := by
  unfold variant
  split
  case h_14 =>
    have hop : 0x0D ≤ op.toNat := by
      simp only [imp_false] at *
      omega
    simp [hop, eq_comm]
  -- an assigned byte: another constructor, and the byte is below 0x0D
  all_goals simp [*]

/-- What decodes has all its bytes there, and is the variant of its opcode with the length of its opcode (R95). -/
theorem decodeStream_cons_eq_ok {op : Byte} {rest : List Byte} {b : Bytecode} {n : Nat} :
    decodeStream (op :: rest) = .ok (b, n) ↔
      ilen op ≤ rest.length + 1 ∧ variant op (rest.getD 0 0) (rest.getD 1 0) (rest.getD 2 0) = b ∧ ilen op = n := by
  simp only [decodeStream, List.length_cons]
  split_ifs with hcut
  case pos => simp [Nat.not_le_of_lt hcut]
  case neg => simp [Nat.le_of_not_lt hcut]

/-- Settles O7: the variant is `Unknown` for the unassigned bytes alone, whose one byte is always there. -/
theorem unknownOpcodesAreExactlyTheUnassignedBytes : Obligations.UnknownOpcodesAreExactlyTheUnassignedBytes := by
  intro op rest
  rw [decodeStream_cons_eq_ok, variant_eq_unknown_iff]
  constructor
  · intro hop
    have hlen : ilen op = 1 := ilen_of_unassigned hop
    exact ⟨by omega, ⟨hop, rfl⟩, hlen⟩
  · rintro ⟨-, ⟨hop, -⟩, -⟩
    exact hop

end Sys2Proof.Machine

/-! ## The voice instructions (41_voice.md R131, R133)

An instruction whose whole effect is one new register set for the executing channel, and the two voice instructions
that answer in every state: `NOTE` and `PITCH`. -/

namespace Sys2Proof.Machine

/-- Writing the executing channel alone keeps the frame of a bytecode instruction (R30, R44, R49). -/
theorem State.onlyChan_setCur (s : State) (x : Channel) : s.OnlyChan (s.setCur x) s.seqr.chan :=
  s.setChan_onlyChan s.seqr.chan x

/-- An outcome that only writes the executing channel, part by part. -/
theorem exists_next_of_eq_setCur {r : Result} {s : State} {x : Channel} (h : r = .next (s.setCur x)) :
    ∃ t, r = .next t ∧ t.cur = x ∧ t.seqr = s.seqr ∧ s.OnlyChan t s.seqr.chan :=
  ⟨s.setCur x, h, s.cur_setCur x, s.setCur_seqr x, s.onlyChan_setCur x⟩

/-- A channel without an instrument contributes 0, whatever its gate, and its frame leaves it as it is (R181). -/
theorem chanFrame_of_no_instrument {s : State} {c : Fin 4} (h : (s.chan c).insv = false) :
    chanFrame s c = .ok (0, s.chan c) := by
  obtain ⟨-, hsilent⟩ | ⟨-, hins, -⟩ := chanFrame_cases s c
  · exact hsilent
  · exact absurd hins (by simp [h])

/-- `NOTE w` (R131): the pitch, the gate, the sample from its start. -/
theorem exec_note (w : Half) (s : State) : exec (.note w) s = .next (s.setCur { s.cur with
    pitch := if w = 0 then 1 else w, gate := true, curi := 0, curf := 0, looped := false,
    pc := s.cur.pc + 3 }) := by
  rw [← pitchOf_eq]
  rfl

/-- `PITCH w` (R133): the pitch alone. -/
theorem exec_pitch (w : Half) (s : State) : exec (.pitch w) s = .next (s.setCur { s.cur with
    pitch := if w = 0 then 1 else w, pc := s.cur.pc + 3 }) := by
  rw [← pitchOf_eq]
  rfl

/-- Settles O14: `NOTE` writes the executing channel alone and keeps `insv`, so without an instrument the channel's
next frame is still silent. -/
theorem noteSetsPitchOpensGateRestartsSample : Obligations.NoteSetsPitchOpensGateRestartsSample := by
  intro w s
  obtain ⟨t, hnext, hcur, hseqr, honly⟩ := exists_next_of_eq_setCur (exec_note w s)
  refine ⟨rfl, t, hnext, hcur, fun hnone => ?silent, hseqr, honly⟩
  case silent =>
    rw [← hseqr]
    apply chanFrame_of_no_instrument
    rw [State.chan_seqr_chan, hcur]
    exact hnone

/-- Settles O17: `PITCH` writes the executing channel alone, and there the pitch and `pc`. -/
theorem pitchSetsThePitchAlone : Obligations.PitchSetsThePitchAlone :=
  fun w s => ⟨rfl, exists_next_of_eq_setCur (exec_pitch w s)⟩

end Sys2Proof.Machine

/-! ## The volume instructions (42_volume.md R141, R142)

Both write one new volume and step over their two bytes; what each volume is as an integer is the content of the two
rules. -/

namespace Sys2Proof.Machine

/-- The byte operand as a signed number (R12) is the two's complement value of its bits. -/
theorem sext_eq_toInt (a : Byte) : sext a = a.toInt := by
  rw [BitVec.toInt_eq_toNat_cond]
  unfold sext
  split_ifs <;> omega

/-- The clamp of R12 as a maximum of a minimum. -/
theorem clamp_eq_max_min {v lo hi : Int} (h : lo ≤ hi) : clamp v lo hi = max lo (min hi v) := by
  unfold clamp
  split_ifs <;> omega

/-- `VOL a` (R141): the volume alone. -/
theorem exec_vol (a : Byte) (s : State) : exec (.vol a) s =
    .next (s.setCur { s.cur with vol := volOf a.toNat, pc := s.cur.pc + 2 }) := rfl

/-- `VOLADD a` (R142): the volume alone. -/
theorem exec_voladd (a : Byte) (s : State) : exec (.voladd a) s =
    .next (s.setCur { s.cur with vol := volPlus s.cur.vol a, pc := s.cur.pc + 2 }) := rfl

/-- The outcome of an instruction of two bytes that writes the volume `v` and nothing else, part by part. -/
theorem exists_next_of_sets_vol {r : Result} {s : State} {v : BitVec 7}
    (h : r = .next (s.setCur { s.cur with vol := v, pc := s.cur.pc + 2 })) :
    ∃ t, r = .next t ∧ t.cur.vol = v ∧ t.cur = { s.cur with vol := t.cur.vol, pc := s.cur.pc + 2 } ∧
      t.seqr = s.seqr ∧ s.OnlyChan t s.seqr.chan := by
  obtain ⟨t, hnext, hcur, hframe⟩ := exists_next_of_eq_setCur h
  have hvol : t.cur.vol = v := by rw [hcur]
  exact ⟨t, hnext, hvol, by rw [hvol, hcur], hframe⟩

/-- Settles O18: `VOL` writes the volume alone, and the minimum fits its 7 bits. -/
theorem volSetsTheClampedVolume : Obligations.VolSetsTheClampedVolume := by
  intro a s
  obtain ⟨t, hnext, hvol, hcur, hframe⟩ := exists_next_of_sets_vol (exec_vol a s)
  have hmin : t.cur.vol.toNat = min a.toNat 64 := by rw [hvol, volOf_toNat]
  exact ⟨rfl, t, hnext, hcur, hmin, hframe⟩

/-- Settles O19: `VOLADD` writes the volume alone, and the sum is clamped over the integers before it is narrowed, so
it never wraps. -/
theorem volAddSaturatesTheExactSum : Obligations.VolAddSaturatesTheExactSum := by
  intro a s
  obtain ⟨t, hnext, hvol, hcur, hframe⟩ := exists_next_of_sets_vol (exec_voladd a s)
  have hsum : (t.cur.vol.toNat : Int) = max 0 (min 64 ((s.cur.vol.toNat : Int) + a.toInt)) := by
    rw [hvol, volPlus_toNat, sext_eq_toInt, clamp_eq_max_min (by decide)]
  exact ⟨rfl, t, hnext, hcur, hsum, hframe⟩

end Sys2Proof.Machine

/-! ## The oscillators (43_effects.md R150, R155 to R158; 45_synth_mixer.md R183, R184)

The offset of an oscillator as a quotient over the integers, the effective pitch and volume it leads to, and the four
instructions that write an oscillator's registers. -/

namespace Sys2Proof.Machine

/-! ### The offset -/

/-- The quotient of R12 is the core library's quotient rounded toward zero. -/
theorem tdiv_eq_intTdiv (a b : Int) : tdiv a b = Int.tdiv a b := by
  unfold tdiv
  split
  case isTrue h => rw [Int.tdiv_eq_ediv_of_nonneg h]
  case isFalse h => rw [← Int.tdiv_eq_ediv_of_nonneg (by omega), Int.neg_tdiv, Int.neg_neg]

/-- R150, with the peak as a numeral. -/
theorem oscOffset_eq (p : Config) (ph dep : Byte) :
    oscOffset p ph dep = Int.tdiv (p.wave[ph.toNat / 4]'(by omega) * (dep.toNat : Int)) 32 :=
  tdiv_eq_intTdiv _ _

/-- Where the table stands at its peak, the offset is the full depth. -/
theorem oscOffset_of_wave_peak {p : Config} {ph : Byte} (dep : Byte)
    (h : p.wave[ph.toNat / 4]'(by omega) = 32) : oscOffset p ph dep = dep.toNat := by
  rw [oscOffset_eq, h, Int.mul_tdiv_cancel_left _ (by decide)]

/-- The quotient rounds toward zero, so full depth downward is exact too. -/
theorem neg_peak_mul_tdiv (d : Int) : Int.tdiv (-32 * d) 32 = -d := by
  rw [Int.neg_mul, Int.neg_tdiv, Int.mul_tdiv_cancel_left _ (by decide)]

/-- Where the table stands at its negative peak, the offset is the full depth downward. -/
theorem oscOffset_of_wave_neg_peak {p : Config} {ph : Byte} (dep : Byte)
    (h : p.wave[ph.toNat / 4]'(by omega) = -32) : oscOffset p ph dep = -(dep.toNat : Int) := by
  rw [oscOffset_eq, h, neg_peak_mul_tdiv]

/-- The offset is at most the depth in size: the quotient is monotone, and no table entry passes the two peaks (R10),
where it is the depth and its negative. -/
theorem oscOffset_mem (p : Config) (ph dep : Byte) :
    -(dep.toNat : Int) ≤ oscOffset p ph dep ∧ oscOffset p ph dep ≤ dep.toNat := by
  obtain ⟨hlo, hhi⟩ := wave_mem p (ph.toNat / 4) (by omega)
  have hdep : (0 : Int) ≤ dep.toNat := Int.natCast_nonneg _
  rw [oscOffset_eq]
  constructor
  · calc -(dep.toNat : Int)
        = Int.tdiv (-32 * (dep.toNat : Int)) 32 := (neg_peak_mul_tdiv _).symm
      _ ≤ _ := Int.tdiv_le_tdiv (by decide) (Int.mul_le_mul_of_nonneg_right hlo hdep)
  · calc _ ≤ Int.tdiv (32 * (dep.toNat : Int)) 32 :=
          Int.tdiv_le_tdiv (by decide) (Int.mul_le_mul_of_nonneg_right hhi hdep)
      _ = dep.toNat := Int.mul_tdiv_cancel_left _ (by decide)

/-- An oscillator of depth 0 has no effect, whatever the table and the phase are. -/
@[simp] theorem oscOffset_depth_zero (p : Config) (ph : Byte) : oscOffset p ph 0 = 0 := by
  simp [oscOffset_eq]

/-! ### The effective pitch and volume -/

/-- The effective pitch (R183) as an exact integer. -/
theorem effPitch_toInt (p : Config) (x : Channel) :
    (effPitch p x : Int) = clamp (x.pitch.toNat + oscOffset p x.vph x.vdep) 1 65535 :=
  Int.toNat_of_nonneg (Int.le_trans Int.one_nonneg (clamp_mem (by decide)).1)

/-- The effective volume (R184) as an exact integer. -/
theorem effVol_toInt (p : Config) (x : Channel) :
    (effVol p x : Int) = clamp (x.vol.toNat + oscOffset p x.tph x.tdep) 0 64 :=
  Int.toNat_of_nonneg (clamp_mem (by decide)).1

/-- Without vibrato the pitch is played as it stands: it is in its range already. -/
theorem effPitch_of_depth_zero {p : Config} {x : Channel} (hdep : x.vdep = 0) (hpitch : 1 ≤ x.pitch.toNat) :
    effPitch p x = x.pitch.toNat := by
  have hlt := x.pitch.isLt
  have h := effPitch_toInt p x
  rw [hdep, oscOffset_depth_zero, Int.add_zero, clamp_of_mem (by omega) (by omega)] at h
  exact Int.ofNat.inj h

/-- Without tremolo the volume is played as it stands: it is in its range already. -/
theorem effVol_of_depth_zero {p : Config} {x : Channel} (hdep : x.tdep = 0) (hvol : x.vol.toNat ≤ 64) :
    effVol p x = x.vol.toNat := by
  have h := effVol_toInt p x
  rw [hdep, oscOffset_depth_zero, Int.add_zero, clamp_of_mem (by omega) (by omega)] at h
  exact Int.ofNat.inj h

/-- Settles O36: the offset's bounds are its values at the two peaks of the table, and both clamps are taken over the
integers. -/
theorem oscillatorOffsetsModulatePitchAndVolume : Obligations.OscillatorOffsetsModulatePitchAndVolume := by
  refine ⟨fun p ph dep => ?offset, fun p x => ?effective, fun p ph x => ?unmodulated⟩
  case offset =>
    obtain ⟨hlo, hhi⟩ := oscOffset_mem p ph dep
    exact ⟨oscOffset_eq p ph dep, hlo, hhi, oscOffset_of_wave_peak dep, oscOffset_of_wave_neg_peak dep⟩
  case effective =>
    rw [effPitch_toInt, effVol_toInt]
    exact ⟨clamp_eq_max_min (by decide), clamp_eq_max_min (by decide)⟩
  case unmodulated =>
    exact ⟨oscOffset_depth_zero p ph, effPitch_of_depth_zero, effVol_of_depth_zero⟩

/-! ### The instructions that set and clear an oscillator -/

/-- `VIB a, b` (R155): the vibrato registers alone, from phase 0. -/
theorem exec_vib (a b : Byte) (s : State) : exec (.vib a b) s =
    .next (s.setCur { s.cur with vdep := a, vspd := b, vph := 0, pc := s.cur.pc + 3 }) := rfl

/-- `VIBOFF` (R156): the vibrato registers alone, cleared. -/
theorem exec_viboff (s : State) : exec .viboff s =
    .next (s.setCur { s.cur with vdep := 0, vspd := 0, vph := 0, pc := s.cur.pc + 1 }) := rfl

/-- `TREM a, b` (R157): the tremolo registers alone, from phase 0. -/
theorem exec_trem (a b : Byte) (s : State) : exec (.trem a b) s =
    .next (s.setCur { s.cur with tdep := a, tspd := b, tph := 0, pc := s.cur.pc + 3 }) := rfl

/-- `TREMOFF` (R158): the tremolo registers alone, cleared. -/
theorem exec_tremoff (s : State) : exec .tremoff s =
    .next (s.setCur { s.cur with tdep := 0, tspd := 0, tph := 0, pc := s.cur.pc + 1 }) := rfl

/-- Settles O20: each of the four instructions writes the executing channel alone, and there one oscillator and
`pc`. -/
theorem vibratoAndTremoloAreSetAndCleared : Obligations.VibratoAndTremoloAreSetAndCleared := by
  refine ⟨fun a b => ?encodings, fun a b s => ?vib, fun s => ?viboff, fun a b s => ?trem, fun s => ?tremoff⟩
  case encodings => exact ⟨rfl, rfl, rfl, rfl⟩
  case vib => exact exists_next_of_eq_setCur (exec_vib a b s)
  case viboff => exact exists_next_of_eq_setCur (exec_viboff s)
  case trem => exact exists_next_of_eq_setCur (exec_trem a b s)
  case tremoff => exact exists_next_of_eq_setCur (exec_tremoff s)

end Sys2Proof.Machine

/-! ## Unknown opcodes (44_flow.md R171; 10_state.md R41)

The event is recorded in the executing channel under both policies, and a recorded event shows in `STATUS`. -/

namespace Sys2Proof.Machine

/-- Bit `4 + c` of `STATUS` is `ERRc` (R41). -/
theorem regRead_status_errFlag (s : State) (c : Fin 4) :
    (regRead s 3).getLsbD (4 + c.val) = (s.chan c).errFlag := by
  have hchan : (⟨4 + c.val - 4, by omega⟩ : Fin 4) = c := Fin.ext (by simp)
  rw [regRead_of_global s (by decide)]
  refine (statusWord_getLsbD s (4 + c.val)).trans ?_
  rw [if_neg (by omega), if_neg (by omega), if_neg (by omega), dif_pos (by omega), hchan]

/-- An unknown opcode (R171) under the two policies: skip goes on past the byte, halt stops at it. -/
theorem exec_unknown (op : Byte) (s : State) : exec (.unknown op) s = .next (s.setCur
    (if s.unkskip = true then
        { s.cur with err := .unknownOpcode, errpc := s.cur.pc, errb := op, pc := s.cur.pc + 1 }
      else
        { s.cur with
          err := .unknownOpcode, errpc := s.cur.pc, errb := op, st := .stopped, stopc := .errorEvent })) := by
  change execUnknown op s = _
  unfold execUnknown
  split
  case isTrue hskip => rfl
  case isFalse hhalt => rfl

/-- Settles O26: the unassigned bytes decode to `Unknown`, and whatever the policy, the executing channel alone is
written and its latch holds the event that `STATUS` shows. -/
theorem unknownOpcodeIsRecordedThenHaltsOrSkips : Obligations.UnknownOpcodeIsRecordedThenHaltsOrSkips := by
  intro op s
  obtain ⟨t, hnext, hcur, hseqr, honly⟩ := exists_next_of_eq_setCur (exec_unknown op s)
  have hdecode (rest : List Byte) (hop : 0x0D ≤ op.toNat) : decodeStream (op :: rest) = .ok (.unknown op, 1) :=
    (unknownOpcodesAreExactlyTheUnassignedBytes op rest).mp hop
  have hlatched : t.cur.err = .unknownOpcode := by
    rw [hcur]
    split
    case isTrue hskip => rfl
    case isFalse hhalt => rfl
  have hstatus : (regRead t 3).getLsbD (4 + s.seqr.chan.val) = true := by
    rw [← hseqr, regRead_status_errFlag, State.chan_seqr_chan]
    simp [Channel.errFlag, hlatched]
  exact ⟨hdecode, t, hnext, hcur, rfl, rfl, hstatus, hseqr, honly⟩

end Sys2Proof.Machine

/-! ## The mixer (45_synth_mixer.md R191, R194 to R196)

The range of one channel's contribution, the independence of the four channel frames of each other, and the words the
mixer makes of the four contributions. -/

namespace Sys2Proof.Machine

/-! ### The contribution of a channel -/

/-- A signed byte scaled by a volume (R191). -/
theorem sext_mul_mem (a : Byte) {v : Nat} (hv : v ≤ 64) : -8192 ≤ sext a * (v : Int) ∧ sext a * (v : Int) ≤ 8128 := by
  obtain ⟨hlo, hhi⟩ := sext_mem a
  have hv0 : (0 : Int) ≤ v := Int.natCast_nonneg v
  have hlow : -128 * (v : Int) ≤ sext a * v := Int.mul_le_mul_of_nonneg_right hlo hv0
  have hhigh : sext a * v ≤ 127 * (v : Int) := Int.mul_le_mul_of_nonneg_right hhi hv0
  omega

/-- What is fetched and scaled is in range (R190, R191). -/
theorem soundAt_mem {s : State} {x y : Channel} {S : Sample} {cur : Nat} {k : Int}
    (h : soundAt s x S cur = .ok (k, y)) : -8192 ≤ k ∧ k ≤ 8128 := by
  obtain ⟨-, heq⟩ := soundAt_eq_ok.mp h
  obtain ⟨rfl, -⟩ := Prod.mk.inj heq
  exact sext_mul_mem _ (effVol_le s.par x)

/-- A sounding channel contributes a scaled amplitude, or 0 at its sample's end (R188, R189). -/
theorem soundFrame_mem {s : State} {x y : Channel} {I : Instrument} {S : Sample} {k : Int}
    (h : soundFrame s x I S = .ok (k, y)) : -8192 ≤ k ∧ k ≤ 8128 := by
  simp only [soundFrame] at h
  split at h
  case isTrue hlooping => exact soundAt_mem h
  case isFalse honeShot =>
    split at h
    case isTrue hended =>
      cases h
      decide
    case isFalse hplaying => exact soundAt_mem h

/-- The silence level of an instrument is a signed byte (R70, R182). -/
theorem readInstrument_silence_mem {s : State} {i : Nat} {I : Instrument} (h : readInstrument s i = .ok I) :
    -128 ≤ I.silence ∧ I.silence ≤ 127 := by
  obtain ⟨-, rfl⟩ := readInstrument_eq_ok.mp h
  exact sext_mem _

/-- The contribution of a channel, in each of its cases (R181): 0, a silence level, or a scaled amplitude (R195). -/
theorem chanFrame_mem {s : State} {c : Fin 4} {k : Int} {y : Channel} (h : chanFrame s c = .ok (k, y)) :
    -8192 ≤ k ∧ k ≤ 8128 := by
  obtain ⟨-, hsilent⟩ | ⟨-, -, hread⟩ := chanFrame_cases s c
  · rw [hsilent] at h
    cases h
    decide
  · simp only [hread, bind_eq_ok] at h
    obtain ⟨I, hI, S, -, h⟩ := h
    split at h
    case isTrue hgate =>
      cases h
      have := readInstrument_silence_mem hI
      omega
    case isFalse hgate => exact soundFrame_mem h

/-! ### The four channels of a frame -/

/-- A channel's frame does not depend on another channel's register set (R180). -/
theorem chanFrame_setChan_ne (s : State) {c d : Fin 4} (h : d ≠ c) (x : Channel) :
    chanFrame (s.setChan c x) d = chanFrame s d :=
  chanFrame_congr rfl rfl rfl (s.chan_setChan_ne h x)

/-- The four channel frames of a frame, each as it is on the state before the frame (R180, R197). -/
theorem frameChans_eq_ok {s : State} {k : Fin 4 → Int} {y : Fin 4 → Channel}
    (h : ∀ c, chanFrame s c = .ok (k c, y c)) :
    frameChans s = .ok ((k 0, k 1, k 2, k 3), { s with ch := ⟨y 0, y 1, y 2, y 3⟩ }) := by
  have h1 : chanFrame (s.setChan 0 (y 0)) 1 = .ok (k 1, y 1) := by
    rw [chanFrame_setChan_ne _ (by decide), h]
  have h2 : chanFrame ((s.setChan 0 (y 0)).setChan 1 (y 1)) 2 = .ok (k 2, y 2) := by
    rw [chanFrame_setChan_ne _ (by decide), chanFrame_setChan_ne _ (by decide), h]
  have h3 : chanFrame (((s.setChan 0 (y 0)).setChan 1 (y 1)).setChan 2 (y 2)) 3 = .ok (k 3, y 3) := by
    rw [chanFrame_setChan_ne _ (by decide), chanFrame_setChan_ne _ (by decide),
      chanFrame_setChan_ne _ (by decide), h]
  simp only [frameChans, bind_eq_ok]
  exact ⟨_, h 0, _, h1, _, h2, _, h3, rfl⟩

/-- A frame whose channels answer: their register sets, and the words of their contributions (R197). -/
theorem frame_of_chanFrames {s : State} {k : Fin 4 → Int} {y : Fin 4 → Channel}
    (h : ∀ c, chanFrame s c = .ok (k c, y c)) :
    frame s = .next { s with
      ch := ⟨y 0, y 1, y 2, y 3⟩, out := s.out ++ mixWords s.mono (k 0, k 1, k 2, k 3) } :=
  onRead_eq_next.mpr ⟨_, frameChans_eq_ok h, rfl⟩

/-! ### The words -/

/-- An integer in the signed 16-bit range is the value of its word (R196). -/
theorem toInt_ofInt_half {v : Int} (hlo : -32768 ≤ v) (hhi : v ≤ 32767) : (BitVec.ofInt 16 v).toInt = v :=
  BitVec.toInt_ofInt_eq_self (by decide) hlo (Int.lt_add_one_of_le hhi)

/-- The words of a frame are the exact sums: the sums of the two sides leave nothing to clip or wrap (R194 to R196). -/
theorem mixWords_toInt (mono : Bool) {k0 k1 k2 k3 : Int} (hL : -16384 ≤ k0 + k3 ∧ k0 + k3 ≤ 16256)
    (hR : -16384 ≤ k1 + k2 ∧ k1 + k2 ≤ 16256) :
    (mixWords mono (k0, k1, k2, k3)).map BitVec.toInt =
      if mono = true then [(k0 + k3) + (k1 + k2)] else [k0 + k3, k1 + k2] := by
  cases mono with
  | true =>
    change [(BitVec.ofInt 16 ((k0 + k3) + (k1 + k2))).toInt] = [(k0 + k3) + (k1 + k2)]
    rw [toInt_ofInt_half (by omega) (by omega)]
  | false =>
    change [(BitVec.ofInt 16 (k0 + k3)).toInt, (BitVec.ofInt 16 (k1 + k2)).toInt] = [k0 + k3, k1 + k2]
    rw [toInt_ofInt_half (by omega) (by omega), toInt_ofInt_half (by omega) (by omega)]

/-- Two contributions on one side (R195). -/
theorem side_mem {a b : Int} (ha : -8192 ≤ a ∧ a ≤ 8128) (hb : -8192 ≤ b ∧ b ≤ 8128) :
    -16384 ≤ a + b ∧ a + b ≤ 16256 := by
  omega

/-- Settles O42: the channel frames are independent of each other, and their contributions are small enough for every
sum to fit its word. -/
theorem frameAppendsTheExactSums : Obligations.FrameAppendsTheExactSums := by
  intro s k y h
  have hrange (c : Fin 4) : -8192 ≤ k c ∧ k c ≤ 8128 := chanFrame_mem (h c)
  have hL : -16384 ≤ k 0 + k 3 ∧ k 0 + k 3 ≤ 16256 := side_mem (hrange 0) (hrange 3)
  have hR : -16384 ≤ k 1 + k 2 ∧ k 1 + k 2 ≤ 16256 := side_mem (hrange 1) (hrange 2)
  exact ⟨hrange, and_assoc.mp ⟨hL, hR⟩, _, frame_of_chanFrames h, mixWords_toInt s.mono hL hR⟩

end Sys2Proof.Machine

/-! ## The port's command register and the command `STOP` (46_host_commands.md R210, R211, R222, R231)

What a write to `CMD` runs, what a write to another register reaches, and the command whose effect is one function of
each channel. -/

namespace Sys2Proof.Machine

/-! ### A write to `CMD` -/

/-- Bits 31:8 of the word written are ignored (R210). -/
theorem commandCode_toNat (v : Word) : (commandCode v).toNat = v.toNat % 256 :=
  (BitVec.extractLsb'_toNat 0 8 v).trans (by rw [Nat.shiftRight_zero])

/-- The code that a command is encoded as decodes to it (R210). -/
theorem decodeCommand_of_encode {k : Command} {c : Byte} (h : encode k.toInstr = [c]) :
    decodeCommand c = .ok k := by
  cases k
  -- the encoding of a command is its one code, so the byte is that code
  all_goals
    cases h
    rfl

/-- Only 1 to 6 are codes of commands (R211). -/
theorem decodeCommand_of_bad {c : Byte} (h : c.toNat = 0 ∨ 7 ≤ c.toNat) :
    decodeCommand c = .error (.badCommand c) := by
  unfold decodeCommand
  split
  case h_7 => rfl
  -- a code of a command lies between 1 and 6
  all_goals omega

/-- A command's code runs the command (R210). -/
theorem command_of_encode {k : Command} {c : Byte} (h : encode k.toInstr = [c]) (s : State) :
    command c s = exec k.toInstr s := by
  simp only [command, decode, decodeCommand_of_encode h, Except.map]

/-- Any other code writes `result` alone (R211). -/
theorem command_of_bad {c : Byte} (h : c.toNat = 0 ∨ 7 ≤ c.toNat) (s : State) :
    command c s = .next { s with result := .badCmd } := by
  simp only [command, decode, decodeCommand_of_bad h, Except.map, badCommand]

/-- Between commands a write to `CMD` runs the code in its low byte. -/
theorem step_regWrite_cmd {s : State} {n : Byte} {v : Word} {rest : List HostOp} (h0 : n.toNat = 0)
    (ha : s.seqr.active = false) (hh : s.host = .regWrite n v :: rest) :
    step s = command (commandCode v) { s with host := rest } := by
  rw [step_of_host ha hh, serve, if_pos h0]

/-- A write to `CMD` of a low byte that is no command's code, as a step (R211). -/
theorem step_regWrite_badCommand {s : State} {n : Byte} {v : Word} {rest : List HostOp} (h0 : n.toNat = 0)
    (hv : v.toNat % 256 = 0 ∨ 7 ≤ v.toNat % 256) (ha : s.seqr.active = false)
    (hh : s.host = .regWrite n v :: rest) : step s = .next { s with host := rest, result := .badCmd } := by
  rw [← commandCode_toNat] at hv
  rw [step_regWrite_cmd h0 ha hh, command_of_bad hv]

/-! ### A write to another register -/

/-- Between commands a write to a register other than `CMD` is `regWrite`. -/
theorem step_regWrite_of_ne_cmd {s : State} {n : Byte} {v : Word} {rest : List HostOp} (h0 : n.toNat ≠ 0)
    (ha : s.seqr.active = false) (hh : s.host = .regWrite n v :: rest) :
    step s = .next (regWrite n v { s with host := rest }) := by
  rw [step_of_host ha hh, serve, if_neg h0]

theorem regWrite_of_cfg {n : Byte} (h2 : n.toNat = 2) (v : Word) (s : State) :
    regWrite n v s = { s with unkskip := v.getLsbD 0, mono := v.getLsbD 1 } :=
  if_pos h2

theorem regWrite_of_arg {n : Byte} {k : Fin 8} (hk : n.toNat = 8 + k.val) (v : Word) (s : State) :
    regWrite n v s = { s with arg := s.arg.set k.val v } := by
  have hidx : n.toNat - 8 = k.val := by omega
  unfold regWrite
  rw [if_neg (by omega), dif_pos (by omega)]
  simp only [hidx]

/-- The three things a register write can be: to `CFG`, to an `ARGk`, or ignored (R231). -/
theorem register_number_cases (n : Byte) :
    n.toNat = 2 ∨ (∃ k : Fin 8, n.toNat = 8 + k.val) ∨
      (n.toNat ≠ 2 ∧ (n.toNat < 8 ∨ 0x10 ≤ n.toNat)) := by
  by_cases harg : 8 ≤ n.toNat ∧ n.toNat < 0x10
  · exact .inr (.inl ⟨⟨n.toNat - 8, by omega⟩, by simp only; omega⟩)
  · omega

/-- What a register write leaves unchanged: all but `CFG` and the arguments (R231). -/
theorem regWrite_frame (n : Byte) (v : Word) (s : State) :
    regWrite n v s = { s with
      unkskip := (regWrite n v s).unkskip, mono := (regWrite n v s).mono, arg := (regWrite n v s).arg } := by
  obtain hcfg | ⟨k, hk⟩ | ⟨h2, hn⟩ := register_number_cases n
  · rw [regWrite_of_cfg hcfg]
  · rw [regWrite_of_arg hk]
  · rw [regWrite_of_readOnly h2 hn]

/-- `CFG` takes the two low bits of a write to it, and no other write reaches it (R40, R231). -/
theorem regWrite_cfg (n : Byte) (v : Word) (s : State) :
    if n.toNat = 2 then (regWrite n v s).unkskip = v.getLsbD 0 ∧ (regWrite n v s).mono = v.getLsbD 1
    else (regWrite n v s).unkskip = s.unkskip ∧ (regWrite n v s).mono = s.mono := by
  obtain hcfg | ⟨k, hk⟩ | ⟨h2, hn⟩ := register_number_cases n
  · rw [if_pos hcfg, regWrite_of_cfg hcfg]
    exact ⟨rfl, rfl⟩
  · rw [if_neg (by omega), regWrite_of_arg hk]
    exact ⟨rfl, rfl⟩
  · rw [if_neg h2, regWrite_of_readOnly h2 hn]
    exact ⟨rfl, rfl⟩

/-- `ARGk` takes the word of a write to it, and no other write reaches it (R231). -/
theorem regWrite_arg (n : Byte) (v : Word) (s : State) (k : Fin 8) :
    (regWrite n v s).arg[k] = if n.toNat = 8 + k.val then v else s.arg[k] := by
  obtain hcfg | ⟨j, hj⟩ | ⟨h2, hn⟩ := register_number_cases n
  · rw [if_neg (by omega), regWrite_of_cfg hcfg]
  · rw [regWrite_of_arg hj, hj]
    simp only [Fin.getElem_fin, Vector.getElem_set, Nat.add_left_cancel_iff]
  · rw [if_neg (by omega), regWrite_of_readOnly h2 hn]

/-! ### `STOP` -/

/-- `STOP` on one channel (R222): an active channel is stopped by the host, another is left as it is. -/
theorem Channel.hostStop_eq (x : Channel) : x.hostStop =
    if x.st = .running ∨ x.st = .waiting then { x with st := .stopped, stopc := .hostStop } else x := by
  simp only [Channel.hostStop, x.live_iff, Channel.halt]

theorem Channel.hostStop_live (x : Channel) : x.hostStop.live = false := by
  unfold Channel.hostStop
  split
  case isTrue hactive => rfl
  case isFalse hactive => exact Bool.eq_false_of_not_eq_true hactive

/-- A channel that is neither `RUNNING` nor `WAITING` contributes 0, and its frame leaves it as it is (R181). -/
theorem chanFrame_of_not_live {s : State} {c : Fin 4} (h : (s.chan c).live = false) :
    chanFrame s c = .ok (0, s.chan c) := by
  obtain ⟨-, hsilent⟩ | ⟨hlive, -, -⟩ := chanFrame_cases s c
  · exact hsilent
  · exact absurd hlive (by simp [h])

/-- `STOP` (R222): each channel stopped, no sound valid. -/
theorem exec_stop (s : State) : exec .stop s =
    .next { s with ch := s.ch.map Channel.hostStop, sndValid := false, result := .ok } :=
  rfl

/-! ### The obligations -/

/-- Settles O12: the low byte is the code, and it is outside the table. -/
theorem badCommandWritesResultOnly : Obligations.BadCommandWritesResultOnly := by
  intro s v rest ha hh hv
  exact ⟨step_regWrite_badCommand (by decide) hv ha hh, rfl⟩

/-- Settles O50: `STOP` maps each channel to one that is not active, whose frames are silent. -/
theorem stopStopsTheActiveChannels : Obligations.StopStopsTheActiveChannels := by
  intro s
  refine ⟨_, exec_stop s, fun c => ?channels, rfl, rfl, fun c => chanFrame_of_not_live ?inactive⟩
  case channels => exact (s.ch.get_map Channel.hostStop c).trans (s.chan c).hostStop_eq
  case inactive =>
    rw [State.chan, Channels.get_map]
    exact Channel.hostStop_live _

/-- Settles O53: a write to `CMD` is its command, and the rest of the registers is what `regWrite` reaches. -/
theorem registerWritesReachCfgAndArgOnly : Obligations.RegisterWritesReachCfgAndArgOnly := by
  intro s n v rest ha hh
  refine ⟨fun h0 k hk => ?command, fun h0 hv => step_regWrite_badCommand h0 hv ha hh, fun h0 => ?register⟩
  case command => exact (step_regWrite_cmd h0 ha hh).trans (command_of_encode hk _)
  case register =>
    exact ⟨_, step_regWrite_of_ne_cmd h0 ha hh, regWrite_frame n v _, regWrite_cfg n v _, regWrite_arg n v _,
      cfgWord_toNat _⟩

end Sys2Proof.Machine

/-! ## The round trip of the encoding (30_encoding.md R91 to R100; 46_host_commands.md R210)

Decoding what was encoded gives the instruction back, and encoding what was decoded gives the bytes back; then the
step that runs the instruction whose bytes stand at the program counter, or the command whose code is written. -/

namespace Sys2Proof.Machine

/-! ### The two bytes of a 16-bit operand (R94) -/

theorem hiByte_toNat (w : Half) : (hiByte w).toNat = w.toNat / 256 := by
  have hw := w.isLt
  rw [hiByte, BitVec.extractLsb'_toNat, Nat.shiftRight_eq_div_pow]
  omega

theorem loByte_toNat (w : Half) : (loByte w).toNat = w.toNat % 256 := by
  rw [loByte, BitVec.extractLsb'_toNat, Nat.shiftRight_zero]

theorem be16_toNat (hi lo : Byte) : (be16 hi lo).toNat = hi.toNat * 256 + lo.toNat :=
  toNat_append_eq_add hi lo

@[simp] theorem be16_hiByte_loByte (w : Half) : be16 (hiByte w) (loByte w) = w := by
  apply BitVec.eq_of_toNat_eq
  rw [be16_toNat, hiByte_toNat, loByte_toNat]
  omega

@[simp] theorem hiByte_be16 (hi lo : Byte) : hiByte (be16 hi lo) = hi := by
  have hlo := lo.isLt
  apply BitVec.eq_of_toNat_eq
  rw [hiByte_toNat, be16_toNat]
  omega

@[simp] theorem loByte_be16 (hi lo : Byte) : loByte (be16 hi lo) = lo := by
  have hlo := lo.isLt
  apply BitVec.eq_of_toNat_eq
  rw [loByte_toNat, be16_toNat]
  omega

/-! ### Decoding an encoded instruction -/

/-- An instruction of the stream is a decoded variant of R96. -/
theorem exists_bytecode_of_port {i : Instr} (h : i.port = .stream) : ∃ b : Bytecode, b.toInstr = i := by
  cases i with
  | endSeq => exact ⟨.endSeq, rfl⟩
  | note w => exact ⟨.note w, rfl⟩
  | instr a => exact ⟨.instr a, rfl⟩
  | vol a => exact ⟨.vol a, rfl⟩
  | voladd a => exact ⟨.volAdd a, rfl⟩
  | pitch w => exact ⟨.pitch w, rfl⟩
  | vib a b => exact ⟨.vib a b, rfl⟩
  | viboff => exact ⟨.vibOff, rfl⟩
  | trem a b => exact ⟨.trem a b, rfl⟩
  | tremoff => exact ⟨.tremOff, rfl⟩
  | wait a => exact ⟨.wait a, rfl⟩
  | jmp w => exact ⟨.jmp w, rfl⟩
  | loop a w => exact ⟨.loop a w, rfl⟩
  | unknown op => exact ⟨.unknown op, rfl⟩
  | load | start | tick | render | stop | runtick => cases h

/-- An instruction of the command port is one of the six commands of R210. -/
theorem exists_command_of_port {i : Instr} (h : i.port = .cmd) : ∃ k : Command, k.toInstr = i := by
  cases i with
  | load => exact ⟨.load, rfl⟩
  | start => exact ⟨.start, rfl⟩
  | tick => exact ⟨.tick, rfl⟩
  | render => exact ⟨.render, rfl⟩
  | stop => exact ⟨.stop, rfl⟩
  | runtick => exact ⟨.runtick, rfl⟩
  | _ => cases h

/-- The stream decoder on an encoded variant, whatever bytes follow (R95, R97). -/
theorem decodeStream_encode {b : Bytecode} (h : b.toInstr.wellFormed = true) (rest : List Byte) :
    decodeStream (encode b.toInstr ++ rest) = .ok (b, (encode b.toInstr).length) := by
  cases b with
  | unknown op =>
    have hop : 0x0D ≤ op.toNat := of_decide_eq_true h
    exact (unknownOpcodesAreExactlyTheUnassignedBytes op rest).mp hop
  | _ => simp [Bytecode.toInstr, encode, decodeStream, ilen, variant]

/-- The code of a command decodes to it, whatever follows (R210). -/
theorem decode_encode_command (k : Command) (rest : List Byte) :
    decode .cmd (encode k.toInstr ++ rest) = .ok (k.toInstr, (encode k.toInstr).length) := by
  cases k <;> rfl

/-- Settles O5: an instruction is a variant of the stream or a command, and each is decoded from its own bytes. -/
theorem decodingAnEncodedInstructionGivesItBack : Obligations.DecodingAnEncodedInstructionGivesItBack := by
  intro i rest hwf
  cases hport : i.port with
  | stream =>
    obtain ⟨b, rfl⟩ := exists_bytecode_of_port hport
    rw [decode, decodeStream_encode hwf]
    rfl
  | cmd =>
    obtain ⟨k, rfl⟩ := exists_command_of_port hport
    exact decode_encode_command k rest

/-- Settles O8: each word is the encoding of its instruction. -/
theorem wordsWrittenOutFromTheSpecDecode : Obligations.WordsWrittenOutFromTheSpecDecode :=
  ⟨decodeStream_encode (b := .note 2000) rfl [], decodeStream_encode (b := .instr 9) rfl [],
    decodeStream_encode (b := .volAdd 0xFB) rfl [], decodeStream_encode (b := .vib 100 64) rfl [],
    decodeStream_encode (b := .jmp 13) rfl [], decodeStream_encode (b := .loop 3 4) rfl [],
    decode_encode_command .runtick []⟩

/-! ### Encoding a decoded instruction -/

/-- An opcode byte is one of the thirteen assigned ones, by its number, or an unassigned one (R97, R98). -/
theorem opcode_cases (op : Byte) : (∃ n : Fin 13, op = BitVec.ofNat 8 n) ∨ 0x0D ≤ op.toNat := by
  by_cases h : op.toNat < 0x0D
  · exact .inl ⟨⟨op.toNat, h⟩, by simp⟩
  · exact .inr (by omega)

/-- The variant of an opcode byte is well-formed, and its bytes are the opcode and the operands it uses (R93, R97). -/
theorem encode_variant (op b1 b2 b3 : Byte) :
    (variant op b1 b2 b3).toInstr.wellFormed = true ∧
      encode (variant op b1 b2 b3).toInstr = [op, b1, b2, b3].take (ilen op) := by
  obtain ⟨n, rfl⟩ | hop := opcode_cases op
  · fin_cases n <;> simp [variant, ilen, Bytecode.toInstr, Instr.wellFormed, encode]
  · have hvar : variant op b1 b2 b3 = .unknown op := variant_eq_unknown_iff.mpr ⟨hop, rfl⟩
    rw [hvar, ilen_of_unassigned hop]
    exact ⟨decide_eq_true hop, rfl⟩

theorem ilen_mem (op : Byte) : 1 ≤ ilen op ∧ ilen op ≤ 4 := by
  unfold ilen
  split <;> decide

/-- An operand that is among the bytes is the byte that stands there. -/
theorem some_getD_of_lt {rest : List Byte} {k : Nat} (h : k < rest.length) : some (rest.getD k 0) = rest[k]? := by
  simp [h]

/-- The bytes of an instruction that is all there do not depend on how missing operands are read. -/
theorem take_operands {op : Byte} {rest : List Byte} {n : Nat} (hn : n ≤ rest.length + 1) (h4 : n ≤ 4) :
    [op, rest.getD 0 0, rest.getD 1 0, rest.getD 2 0].take n = (op :: rest).take n := by
  apply List.ext_getElem?
  intro k
  simp only [List.getElem?_take]
  split
  case isFalse => rfl
  case isTrue hk =>
    match k with
    | 0 => rfl
    | 1 => exact some_getD_of_lt (by omega)
    | 2 => exact some_getD_of_lt (by omega)
    | 3 => exact some_getD_of_lt (by omega)
    | k + 4 => omega

theorem port_toInstr (b : Bytecode) : b.toInstr.port = .stream := by
  cases b <;> rfl

/-- What the stream decoder returned: a well-formed variant, whose encoding is the bytes it consumed (R95). -/
theorem encode_of_decodeStream {bs : List Byte} {b : Bytecode} {n : Nat} (h : decodeStream bs = .ok (b, n)) :
    b.toInstr.wellFormed = true ∧ n ≤ bs.length ∧ encode b.toInstr = bs.take n := by
  cases bs with
  | nil => cases h
  | cons op rest =>
    obtain ⟨hlen, rfl, rfl⟩ := decodeStream_cons_eq_ok.mp h
    obtain ⟨hwf, henc⟩ := encode_variant op (rest.getD 0 0) (rest.getD 1 0) (rest.getD 2 0)
    exact ⟨hwf, hlen, henc.trans (take_operands hlen (ilen_mem op).2)⟩

/-- The length returned is the length of the encoding (R92). -/
theorem length_of_decodeStream {bs : List Byte} {b : Bytecode} {n : Nat} (h : decodeStream bs = .ok (b, n)) :
    n = (encode b.toInstr).length := by
  obtain ⟨-, hlen, henc⟩ := encode_of_decodeStream h
  rw [henc, List.length_take, Nat.min_eq_left hlen]

/-- The stream decoder rejects exactly the bytes that end inside their instruction (R95, R100). -/
theorem decodeStream_eq_error_iff (bs : List Byte) : (∃ e, decodeStream bs = .error e) ↔
    bs = [] ∨ ∃ op rest, bs = op :: rest ∧ bs.length < ilen op := by
  cases bs with
  | nil => simp [decodeStream]
  | cons op rest =>
    simp only [decodeStream]
    split
    case isTrue hcut => exact iff_of_true ⟨_, rfl⟩ (.inr ⟨op, rest, rfl, hcut⟩)
    case isFalse hfits => simpa using hfits

/-- Settles O6: what decodes encodes to its bytes, and only bytes that end too early are rejected. -/
theorem streamDecodingReencodesTheBytesConsumed : Obligations.StreamDecodingReencodesTheBytesConsumed := by
  refine ⟨fun bs b n h => ?reencoded, decodeStream_eq_error_iff⟩
  obtain ⟨hwf, hlen, henc⟩ := encode_of_decodeStream h
  exact ⟨hwf, port_toInstr b, hlen, henc⟩

/-! ### The instruction at the program counter -/

/-- With a slice in progress and its channel `RUNNING`, a step is a pass of the slice (R116). -/
theorem step_of_running {s : State} (ha : s.seqr.active = true) (hr : s.cur.st = .running) :
    step s = slicePass execute s := by
  have hex : execute = fun b t => exec b.toInstr t := funext fun b => funext fun t => execute_eq_exec b t
  simp [step, stepSlice, ha, hr, hex]

/-- A pass whose fetch answers an instruction is that instruction (R116, R118). -/
theorem slicePass_of_fetch_ok {s : State} {b : Bytecode} {n : Nat} (h : fetchCur s = .ok (.ok (b, n))) :
    slicePass execute s = execute b s := by
  rw [slicePass, h]
  rfl

/-- A pass whose fetch ends past the declared end stops the channel (R117). -/
theorem slicePass_of_fetch_error {s : State} {e : DecodeError} (h : fetchCur s = .ok (.error e)) :
    slicePass execute s = .next (s.setCur (s.cur.halt .pastEnd)) := by
  rw [slicePass, h]
  rfl

/-- The first of the bytes read from `a` on stands at `a`. -/
theorem memReadByte_of_memReadBytes {s : State} {a n : Nat} {b : Byte} {bs : List Byte}
    (h : memReadBytes s a n = .ok (b :: bs)) : memReadByte s a = .ok b := by
  cases n with
  | zero => cases h
  | succ n =>
    obtain ⟨u, hu, h⟩ := bind_eq_ok.mp h
    obtain ⟨us, -, h⟩ := bind_eq_ok.mp h
    cases h
    exact hu

/-- A well-formed variant's bytes are its opcode byte and as many more as that byte says (R91, R92). -/
theorem encode_eq_cons {b : Bytecode} (h : b.toInstr.wellFormed = true) :
    ∃ op rest, encode b.toInstr = op :: rest ∧ (encode b.toInstr).length = ilen op := by
  have hdec := decodeStream_encode h []
  rw [List.append_nil] at hdec
  cases henc : encode b.toInstr with
  | nil => rw [henc] at hdec; cases hdec
  | cons op rest =>
    rw [henc] at hdec
    obtain ⟨-, -, hlen⟩ := decodeStream_cons_eq_ok.mp hdec
    exact ⟨op, rest, rfl, hlen.symm⟩

/-- The fetch of an instruction that ends inside the declared length decodes its bytes (R95, R117). -/
theorem fetch_of_reads {s : State} {q o : Nat} {S : SeqRecord} {op : Byte} {bs : List Byte}
    (hS : readSeq s q = .ok S) (hop : memReadByte s (S.code + o) = .ok op) (hin : o + ilen op ≤ S.len)
    (hbytes : memReadBytes s (S.code + o) (ilen op) = .ok bs) : fetch s q o = .ok (decodeStream bs) := by
  have h1 := (ilen_mem op).1
  simp only [fetch, bind_eq_ok]
  refine ⟨S, hS, ?_⟩
  rw [if_neg (by omega)]
  refine bind_eq_ok.mpr ⟨op, hop, ?_⟩
  rw [if_neg (by omega)]
  exact bind_eq_ok.mpr ⟨bs, hbytes, rfl⟩

/-- The fetch of an instruction whose bytes lie inside the declared length (R95, R117). -/
theorem fetch_of_encoded {s : State} {q o : Nat} {S : SeqRecord} {b : Bytecode} (hwf : b.toInstr.wellFormed = true)
    (hS : readSeq s q = .ok S) (hin : o + (encode b.toInstr).length ≤ S.len)
    (hbytes : memReadBytes s (S.code + o) (encode b.toInstr).length = .ok (encode b.toInstr)) :
    fetch s q o = .ok (.ok (b, (encode b.toInstr).length)) := by
  obtain ⟨op, rest, henc, hlen⟩ := encode_eq_cons hwf
  have hop : memReadByte s (S.code + o) = .ok op := memReadByte_of_memReadBytes (henc ▸ hbytes)
  have hdec := decodeStream_encode hwf []
  rw [List.append_nil] at hdec
  rw [hlen] at hbytes hin
  rw [fetch_of_reads hS hop hin hbytes, hdec]

/-- The fetch past the declared end: at it, or inside an instruction that it cuts (R100, R117). -/
theorem fetch_of_pastEnd {s : State} {q o : Nat} {S : SeqRecord} {op : Byte} (hS : readSeq s q = .ok S)
    (h : S.len ≤ o ∨ (o < S.len ∧ memReadByte s (S.code + o) = .ok op ∧ S.len < o + ilen op)) :
    fetch s q o = .ok (.error .pastEnd) := by
  simp only [fetch, bind_eq_ok]
  refine ⟨S, hS, ?_⟩
  obtain hend | ⟨hlt, hop, hcut⟩ := h
  · rw [if_pos hend]
  · rw [if_neg (by omega)]
    exact bind_eq_ok.mpr ⟨op, hop, if_pos hcut⟩

/-- Settles O9: the bytes at the program counter decode to the instruction, so the pass runs it. -/
theorem stepRunsTheInstructionAtThePc : Obligations.StepRunsTheInstructionAtThePc := by
  intro s b S ha hr hwf hS hin hbytes
  rw [step_of_running ha hr, slicePass_of_fetch_ok (fetch_of_encoded hwf hS hin hbytes), execute_eq_exec]

/-- Settles O10: the fetch answers `PastEnd`, so the pass stops the channel and writes nothing else. -/
theorem fetchPastTheEndStopsTheChannel : Obligations.FetchPastTheEndStopsTheChannel := by
  intro s S op ha hr hS hpast
  have hpass : step s = .next (s.setCur (s.cur.halt .pastEnd)) := by
    rw [step_of_running ha hr, slicePass_of_fetch_error (fetch_of_pastEnd hS hpast)]
  obtain ⟨t, hnext, hcur, hseqr, honly⟩ := exists_next_of_eq_setCur hpass
  exact ⟨t, hnext, hcur, rfl, hseqr, honly⟩

/-- Settles O11: the code decodes to its command, and bits 31:8 of the word are ignored. -/
theorem stepExecutesTheCommandWritten : Obligations.StepExecutesTheCommandWritten := by
  intro s k v rest ha hh hk
  rw [step_regWrite_cmd (by decide) ha hh]
  exact command_of_encode hk _

/-- A slice whose channel is not `RUNNING` is over (R116). -/
theorem step_of_not_running {s : State} (ha : s.seqr.active = true) (hr : s.cur.st ≠ .running) :
    step s = .next s.leaveSlice := by
  simp [step, stepSlice, ha, hr]

/-- Between commands, with the host idle, nothing happens (R19). -/
theorem step_of_host_nil {s : State} (ha : s.seqr.active = false) (hh : s.host = []) : step s = .next s := by
  simp [step, stepHost, ha, hh]

/-- Settles O13: no operation to serve, or no instruction to run. -/
theorem nothingHappensByItself : Obligations.NothingHappensByItself :=
  ⟨fun _ => step_of_host_nil, fun _ => step_of_not_running⟩

end Sys2Proof.Machine

/-! ## The memory, its records and its port (20_memory.md R61 to R74; 46_host_commands.md R232, R233)

The fields of each record as bytes at their offsets, the contents of the memory after a platform reset, and the two
operations of the memory port. -/

namespace Sys2Proof.Machine

/-! ### Records as bytes at their offsets -/

/-- `BE32` as two 16-bit halves (R12, R61). -/
theorem Memory.value_four_halves (m : Memory) (a : Nat) :
    m.value a 4 = ((m.read a).toNat * 256 + (m.read (a + 1)).toNat) * 65536
      + ((m.read (a + 2)).toNat * 256 + (m.read (a + 3)).toNat) := by
  rw [Memory.value_four]
  omega

/-- A list given by its length and its entries. -/
theorem eq_map_range_iff {bs : List Byte} {n : Nat} {f : Nat → Byte} :
    bs = (List.range n).map f ↔ bs.length = n ∧ ∀ k < n, bs[k]? = some (f k) := by
  constructor
  · rintro rfl
    exact ⟨by simp, fun k hk => by simp [hk]⟩
  · rintro ⟨rfl, hentries⟩
    apply List.ext_getElem (by simp)
    intro k hk _
    have hk' := hentries k hk
    rw [List.getElem?_eq_getElem hk, Option.some.injEq] at hk'
    simpa using hk'

/-- Settles O58: each record is read exactly when the last field read of it lies inside `M`, and its fields are the
values there. -/
theorem recordsAreTheBytesAtTheirOffsets : Obligations.RecordsAreTheBytesAtTheirOffsets := by
  intro s b h w
  have hhalf : ∀ a, s.mem.value a 2 = h a := s.mem.value_two
  have hword : ∀ a, s.mem.value a 4 = w a := s.mem.value_four_halves
  refine ⟨?sample, ?instrument, ?sequence, ?sound, ?code, ?amplitude⟩
  case sample =>
    rintro k A ⟨data, length, loopStart, loopLength, rate⟩ hA
    rw [readSample_eq_ok, show smpAddr s k = A from hA.symm, Sample.mk.injEq]
    simp only [hword]
  case instrument =>
    rintro i A ⟨sample, basePitch, defvol, silence, flags, vibDepth, vibSpeed, tremDepth, tremSpeed⟩ hA
    rw [readInstrument_eq_ok, show insAddr s i = A from hA.symm, Instrument.mk.injEq]
    simp only [hhalf, sext_eq_toInt]
    rfl
  case sequence =>
    intro q A S hA
    rw [readSeq_eq_ok, show seqAddr s q = A from hA.symm, hword, hhalf]
  case sound =>
    intro i A q c hA
    rw [readSound, memRead_eq_ok, show sndAddr s i = A from hA.symm, hhalf]
  case code =>
    intro a n bs hn
    rw [memReadBytes_eq_ok, eq_map_range_iff, or_iff_right (by omega)]
  case amplitude =>
    intro S j v
    rw [readAmp_eq_ok, sext_eq_toInt, Nat.succ_le_iff]

/-! ### The memory after a platform reset (log 5) -/

/-- A canonical memory reads at a listed address the byte listed there. -/
theorem Memory.read_of_mem {m : Memory} {a : Nat} {v : Byte} (hwf : m.wf = true) (h : (a, v) ∈ m) :
    m.read a = v := by
  induction m with
  | nil => cases h
  | cons e m ih =>
    obtain ⟨b, w⟩ := e
    obtain ⟨-, hb, hm⟩ := Memory.wf_cons.mp hwf
    rcases List.mem_cons.mp h with heq | hin
    · obtain ⟨rfl, rfl⟩ := Prod.mk.inj heq
      exact if_pos rfl
    · have hlt : b < a := hb _ hin
      exact (if_neg (by omega)).trans (ih hm hin)

theorem Memory.read_of_forall_ne {m : Memory} {a : Nat} (h : ∀ e ∈ m, e.1 ≠ a) : m.read a = Memory.blank := by
  induction m with
  | nil => rfl
  | cons e m ih =>
    obtain ⟨b, w⟩ := e
    have hba : b ≠ a := h (b, w) List.mem_cons_self
    exact (if_neg hba.symm).trans (ih fun e he => h e (List.mem_cons_of_mem _ he))

/-- An entry of a filled memory holds the byte of its address. -/
theorem Memory.mem_fill {n : Nat} {f : Nat → Byte} {e : Host.Cell} :
    e ∈ Memory.fill n f ↔ e.1 < n ∧ e.2 = f e.1 ∧ e.2 ≠ Memory.blank := by
  obtain ⟨a, v⟩ := e
  simp only [Memory.fill, List.mem_filter, List.mem_map, List.mem_range, decide_eq_true_eq, Prod.mk.injEq]
  constructor
  · rintro ⟨⟨_, ha, rfl, rfl⟩, hv⟩
    exact ⟨ha, rfl, hv⟩
  · rintro ⟨ha, rfl, hv⟩
    exact ⟨⟨a, ha, rfl, rfl⟩, hv⟩

theorem Memory.read_fill {n a : Nat} (f : Nat → Byte) (h : a < n) : (Memory.fill n f).read a = f a := by
  by_cases hblank : f a = Memory.blank
  · rw [hblank]
    refine Memory.read_of_forall_ne fun e he heq => ?_
    obtain ⟨-, hv, hne⟩ := Memory.mem_fill.mp he
    exact hne (by rw [hv, heq, hblank])
  · exact Memory.read_of_mem (Memory.wf_fill n f) (Memory.mem_fill.mpr ⟨h, rfl, hblank⟩)

/-- Settles O3: the reset is served at once, and the memory it leaves is filled with the free values. -/
theorem platformResetFromAnyState : Obligations.PlatformResetFromAnyState := by
  intro s rest ha hh
  exact ⟨_, step_of_host ha hh, rfl, Memory.wf_fill _ _, fun a hlt => Memory.read_fill _ hlt⟩

/-! ### The memory port -/

/-- `MemWrite` within the memory (R232). -/
theorem serve_memWrite {a : Word} {v : Byte} {s : State} (h : a.toNat < s.par.memSize) :
    serve (.memWrite a v) s = .next (hostMemWrite a.toNat v s) :=
  if_pos h

/-- `MemWrite` beyond the memory (U1). -/
theorem serve_memWrite_beyond {a : Word} {v : Byte} {s : State} (h : s.par.memSize ≤ a.toNat) :
    serve (.memWrite a v) s = .fault (.memWrite a.toNat) :=
  if_neg (by omega)

/-- `MemReadHost` within the memory (R233). -/
theorem serve_memReadHost {a : Word} {s : State} (h : a.toNat < s.par.memSize) :
    serve (.memReadHost a) s = .next { s with rdata := BitVec.ofNat 32 (s.mem.read a.toNat).toNat } := by
  have hread : memRead s a.toNat 1 = .ok (s.mem.read a.toNat).toNat :=
    memRead_eq_ok.mpr ⟨h, (s.mem.value_one _).symm⟩
  rw [serve, hread]
  rfl

/-- `MemReadHost` beyond the memory (log 8). -/
theorem serve_memReadHost_beyond {a : Word} {s : State} (h : s.par.memSize ≤ a.toNat) :
    serve (.memReadHost a) s = .fault (.memRead a.toNat 1) := by
  have hread : memRead s a.toNat 1 = .error (.memRead a.toNat 1) := memRead_eq_error.mpr ⟨by omega, rfl⟩
  rw [serve, hread]
  rfl

/-- Settles O56: the two operations of the port, each inside the memory and beyond it. -/
theorem memoryPortWritesAndReadsOneByte : Obligations.MemoryPortWritesAndReadsOneByte := by
  intro s a v rest ha hwf
  refine ⟨fun hh hin => ?write, fun hh hin => ?read, fun hh hout => ?writeBeyond, fun hh hout => ?readBeyond⟩
  case write =>
    exact ⟨_, (step_of_host ha hh).trans (serve_memWrite hin), rfl, Memory.read_write_self hwf _ _,
      fun b hb => Memory.read_write_ne hb _, Memory.wf_write hwf _ _⟩
  case read => exact (step_of_host ha hh).trans (serve_memReadHost hin)
  case writeBeyond => exact (step_of_host ha hh).trans (serve_memWrite_beyond hout)
  case readBeyond => exact (step_of_host ha hh).trans (serve_memReadHost_beyond hout)

end Sys2Proof.Machine

/-! ## The other bytecode instructions (41_voice.md R132; 44_flow.md R166 to R170; 40_sequencer.md R119)

`INSTR` and the flow instructions, one equation per case. -/

namespace Sys2Proof.Machine

/-! ### `INSTR` (R132) -/

/-- What selecting an instrument writes, field by field. -/
theorem Channel.select_eq (x : Channel) (a : Byte) (I : Instrument) : x.select a I = { x with
    ins := a, insv := true, curi := 0, curf := 0, looped := false,
    vol := BitVec.ofNat 7 (min I.defvol 64),
    vdep := if I.flags.getLsbD 0 then I.vibDepth else x.vdep,
    vspd := if I.flags.getLsbD 0 then I.vibSpeed else x.vspd,
    vph := if I.flags.getLsbD 0 then 0 else x.vph,
    tdep := if I.flags.getLsbD 1 then I.tremDepth else x.tdep,
    tspd := if I.flags.getLsbD 1 then I.tremSpeed else x.tspd,
    tph := if I.flags.getLsbD 1 then 0 else x.tph } := by
  unfold Channel.select
  cases I.flags.getLsbD 0 <;> cases I.flags.getLsbD 1 <;> rfl

/-- `INSTR a` of an instrument that does not exist. -/
theorem exec_instr_missing {a : Byte} {s : State} (h : s.dir.insCnt.toNat ≤ a.toNat) :
    exec (.instr a) s = .next (s.setCur (s.cur.raise .notFound a)) :=
  if_pos h

/-- `INSTR a` of an instrument that exists: its record is read. -/
theorem exec_instr_existing {a : Byte} {s : State} (h : a.toNat < s.dir.insCnt.toNat) :
    exec (.instr a) s =
      onRead (readInstrument s a.toNat) fun I => .next (s.setCur ((s.cur.select a I).advance 2)) :=
  if_neg (by omega)

/-- Settles O15: the record is read and the instrument selected, on the executing channel alone. -/
theorem instrSelectsAnExistingInstrument : Obligations.InstrSelectsAnExistingInstrument := by
  intro a s I hlt hI
  have hexec : exec (.instr a) s = .next (s.setCur ((s.cur.select a I).advance 2)) := by
    rw [exec_instr_existing hlt, hI, onRead_ok]
  rw [Channel.select_eq] at hexec
  exact exists_next_of_eq_setCur hexec

/-- Settles O16: the event is raised on the executing channel, and nothing else is written. -/
theorem instrOfAMissingInstrumentHaltsTheChannel : Obligations.InstrOfAMissingInstrumentHaltsTheChannel := by
  intro a s hle
  obtain ⟨t, hnext, hcur, hframe⟩ := exists_next_of_eq_setCur (exec_instr_missing hle)
  exact ⟨t, hnext, hcur, rfl, rfl, hframe⟩

/-! ### `WAIT` and `END` (R166, R170) -/

/-- `WAIT a`: a count of 0 goes on, any other blocks. -/
theorem exec_wait (a : Byte) (s : State) : exec (.wait a) s = .next (s.setCur
    (if a = 0 then { s.cur with pc := s.cur.pc + 2 }
      else { s.cur with pc := s.cur.pc + 2, wait := a, st := .waiting })) := rfl

/-- `END`: the channel stops where it is. -/
theorem exec_endSeq (s : State) : exec .endSeq s = .next (s.setCur (s.cur.halt .endExecuted)) := rfl

/-- Settles O21: `WAIT` writes the executing channel alone. -/
theorem waitBlocksUnlessTheCountIsZero : Obligations.WaitBlocksUnlessTheCountIsZero :=
  fun a s => exists_next_of_eq_setCur (exec_wait a s)

/-- Settles O25: `END` writes the executing channel alone, and there `st` and `stopc`. -/
theorem endStopsTheChannelAtTheEnd : Obligations.EndStopsTheChannelAtTheEnd := by
  intro s
  obtain ⟨t, hnext, hcur, hframe⟩ := exists_next_of_eq_setCur (exec_endSeq s)
  exact ⟨rfl, t, hnext, hcur, rfl, hframe⟩

/-! ### Transfers (R119) -/

/-- A transfer below the runaway bound is taken and counted. -/
theorem transfer_of_lt {s : State} (op : Byte) (x : Channel) (h : s.seqr.xfers.val < 256) :
    transfer op x s = { s.setCur x with seqr := { s.seqr with xfers := s.seqr.xfers + 1 } } ∧
      (s.seqr.xfers + 1).val = s.seqr.xfers.val + 1 := by
  obtain ⟨hlimit, -⟩ | ⟨-, htaken⟩ := transfer_cases op x s
  · omega
  · exact htaken

/-- A transfer at the runaway bound raises the event instead (R244). -/
theorem transfer_of_limit {s : State} (op : Byte) (x : Channel) (h : s.seqr.xfers.val = 256) :
    transfer op x s = s.setCur (s.cur.raise .runawayLoop op) :=
  if_pos h

/-- The outcome of a transfer that is taken, part by part. -/
theorem exists_next_of_transfer {r : Result} {s : State} {op : Byte} {x : Channel}
    (h : r = .next (transfer op x s)) (hlt : s.seqr.xfers.val < 256) :
    ∃ t, r = .next t ∧ t.cur = x ∧ t.seqr.xfers.val = s.seqr.xfers.val + 1 ∧ t.seqr.chan = s.seqr.chan ∧
      t.seqr.active = s.seqr.active ∧ s.OnlyChan t s.seqr.chan := by
  obtain ⟨htaken, hcount⟩ := transfer_of_lt op x hlt
  exact ⟨_, h.trans (congrArg _ htaken), s.cur_setCur x, hcount, rfl, rfl, s.setCur_onlyChan x _⟩

/-- `JMP w` (R167). -/
theorem exec_jmp (w : Half) (s : State) :
    exec (.jmp w) s = .next (transfer 0x0B { s.cur with pc := w } s) := rfl

theorem loopCount_toNat (lc a : Byte) :
    (loopCount lc a).toNat = if lc = 0 then a.toNat else lc.toNat := by
  unfold loopCount
  split <;> rfl

/-- `LOOP a, w` at its last arrival (R168). -/
theorem exec_loop_last {a : Byte} {s : State} (w : Half) (h : (loopCount s.cur.lc a).toNat ≤ 1) :
    exec (.loop a w) s = .next (s.setCur { s.cur with lc := 0, pc := s.cur.pc + 4 }) :=
  if_pos h

/-- `LOOP a, w` before its last arrival (R168). -/
theorem exec_loop_again {a : Byte} {s : State} (w : Half) (h : 2 ≤ (loopCount s.cur.lc a).toNat) :
    exec (.loop a w) s = .next (transfer 0x0C
      { s.cur with lc := BitVec.ofNat 8 ((loopCount s.cur.lc a).toNat - 1), pc := w } s) := by
  have hpred : BitVec.ofNat 8 ((loopCount s.cur.lc a).toNat - 1) = loopCount s.cur.lc a - 1 := by bv_omega
  rw [hpred]
  exact if_neg (by omega)

/-- Settles O22: below the bound the transfer is taken. -/
theorem jmpTransfersAndCounts : Obligations.JmpTransfersAndCounts :=
  fun w s hlt => exists_next_of_transfer (exec_jmp w s) hlt

/-- Settles O23: the two cases of the running count. -/
theorem loopFallsThroughOrBranchesBack : Obligations.LoopFallsThroughOrBranchesBack := by
  intro a w s n hn
  rw [← loopCount_toNat] at hn
  subst hn
  exact ⟨fun hlast => exists_next_of_eq_setCur (exec_loop_last w hlast),
    fun hagain hlt => exists_next_of_transfer (exec_loop_again w hagain) hlt⟩

/-- Settles O24: at the bound both instructions raise the event with their own opcode byte. -/
theorem theNextTransferAfter256RaisesRunawayLoop : Obligations.TheNextTransferAfter256RaisesRunawayLoop := by
  intro a w s hlimit
  refine ⟨?jmp, fun hagain => ?loop, rfl⟩
  case jmp =>
    have h := exec_jmp w s
    rw [transfer_of_limit _ _ hlimit] at h
    exact exists_next_of_eq_setCur h
  case loop =>
    rw [← loopCount_toNat] at hagain
    have h := exec_loop_again w hagain
    rw [transfer_of_limit _ _ hlimit] at h
    exact exists_next_of_eq_setCur h

/-- A branching arrival at a `LOOP`: the target, and the running count one less in `lc` (R168). -/
theorem loop_branches {a : Byte} {w : Half} {s t : State} (h : exec (.loop a w) s = .next t)
    (hlt : s.seqr.xfers.val < 256) (hagain : 2 ≤ (loopCount s.cur.lc a).toNat) :
    t.cur.pc = w ∧ t.cur.lc.toNat = (loopCount s.cur.lc a).toNat - 1 := by
  obtain ⟨u, hnext, hcur, -⟩ := exists_next_of_transfer (exec_loop_again w hagain) hlt
  cases h.symm.trans hnext
  have hcount := (loopCount s.cur.lc a).isLt
  rw [hcur]
  exact ⟨rfl, Nat.mod_eq_of_lt (by omega)⟩

/-- The last arrival at a `LOOP` (R168). -/
theorem loop_falls_through {a : Byte} {w : Half} {s t : State} (h : exec (.loop a w) s = .next t)
    (hlast : (loopCount s.cur.lc a).toNat ≤ 1) : t.cur.lc = 0 ∧ t.cur.pc = s.cur.pc + 4 := by
  obtain ⟨u, hnext, hcur, -⟩ := exists_next_of_eq_setCur (exec_loop_last w hlast)
  cases h.symm.trans hnext
  rw [hcur]
  exact ⟨rfl, rfl⟩

/-- Settles O28: by induction on the arrivals, the running count at arrival `k`, a 0 taken as 1, is `k` less than at
the first. -/
theorem loopBranchesBackCountMinusOneTimes : Obligations.LoopBranchesBackCountMinusOneTimes := by
  intro a w before after hlc hexec hlt hhand
  generalize hm : max a.toNat 1 = m at *
  have hcount : ∀ k < m, max (loopCount (before k).cur.lc a).toNat 1 = m - k := by
    intro k
    induction k with
    | zero =>
      intro _
      rw [loopCount_toNat, if_pos hlc, hm, Nat.sub_zero]
    | succ k ih =>
      intro hk
      have hcountk := ih (by omega)
      obtain ⟨-, hafter⟩ := loop_branches (hexec k (by omega)) (hlt k (by omega)) (by omega)
      have hne : (after k).cur.lc ≠ 0 := by
        intro h0
        rw [h0] at hafter
        change 0 = _ at hafter
        omega
      rw [loopCount_toNat, hhand k (by omega), if_neg hne]
      omega
  refine ⟨fun k hk => ?branches, ?last⟩
  case branches =>
    have hcountk := hcount k (by omega)
    obtain ⟨hpc, hafter⟩ := loop_branches (hexec k (by omega)) (hlt k (by omega)) (by omega)
    exact ⟨hpc, by omega⟩
  case last =>
    have hcountk := hcount (m - 1) (by omega)
    exact loop_falls_through (hexec (m - 1) (by omega)) (by omega)

end Sys2Proof.Machine

/-! ## What a bytecode instruction can do (10_state.md section 6; 40_sequencer.md R116 to R119)

Once for all instructions: the executing channel goes on past the instruction, or is stopped, or a transfer is taken.
The frame of every instruction, the end of every slice and the invariants rest on these three cases. -/

namespace Sys2Proof.Machine

/-! ### The three cases -/

/-- `y` is what is left of `x` by an instruction of `n` bytes that goes on behind itself, where `insCnt` instruments
exist. -/
structure Channel.Proceeds (insCnt n : Nat) (x y : Channel) : Prop where
  pc : y.pc = x.pc + BitVec.ofNat 16 n
  seq : y.seq = x.seq
  st : y.st = x.st ∨ (y.st = .waiting ∧ y.wait ≠ 0)
  stopc : y.stopc = x.stopc
  pitch : 1 ≤ x.pitch.toNat → 1 ≤ y.pitch.toNat
  vol : x.vol.toNat ≤ 64 → y.vol.toNat ≤ 64
  selected : (y.insv = x.insv ∧ y.ins = x.ins) ∨ y.ins.toNat < insCnt

/-- `y` is `x` stopped, by an error event or otherwise (R243, R246). -/
structure Channel.Stops (x y : Channel) : Prop where
  st : y.st = .stopped
  stopc : y.stopc ≠ .notStopped
  errorStop : y.stopc = .errorEvent → y.err ≠ .none
  seq : y.seq = x.seq
  pitch : y.pitch = x.pitch
  vol : y.vol = x.vol
  insv : y.insv = x.insv
  ins : y.ins = x.ins

/-- The state after a transfer that is taken (R119): the loop counter, the target, and one transfer more. -/
def State.jumped (s : State) (lc : Byte) (w : Half) : State :=
  { s.setCur { s.cur with lc := lc, pc := w } with seqr := { s.seqr with xfers := s.seqr.xfers + 1 } }

@[simp] theorem State.cur_jumped (s : State) (lc : Byte) (w : Half) :
    (s.jumped lc w).cur = { s.cur with lc := lc, pc := w } :=
  s.cur_setCur { s.cur with lc := lc, pc := w }

/-- What an instruction of `n` bytes can make of the state. -/
inductive State.Acts (s : State) (n : Nat) : State → Prop where
  | proceeds {y : Channel} (h : s.cur.Proceeds s.dir.insCnt.toNat n y) : s.Acts n (s.setCur y)
  | stops {y : Channel} (h : s.cur.Stops y) : s.Acts n (s.setCur y)
  | transfers (lc : Byte) (w : Half) (h : (s.seqr.xfers + 1).val = s.seqr.xfers.val + 1) : s.Acts n (s.jumped lc w)

theorem Channel.stops_halt (x : Channel) {why : StopCause} (h : why ≠ .notStopped) (he : why ≠ .errorEvent) :
    x.Stops (x.halt why) :=
  ⟨rfl, h, fun h => absurd h he, rfl, rfl, rfl, rfl, rfl⟩

theorem Channel.stops_raise (x : Channel) {e : ChErr} (h : e ≠ .none) (info : Byte) : x.Stops (x.raise e info) :=
  ⟨rfl, nofun, fun _ => h, rfl, rfl, rfl, rfl, rfl⟩

/-- The clamp of R131 and R133 leaves a legal pitch. -/
theorem one_le_pitchOf (w : Half) : 1 ≤ (if w = 0 then 1 else w : Half).toNat := by
  split
  case isTrue => decide
  case isFalse h => bv_omega

theorem volOf_le (v : Nat) : (volOf v).toNat ≤ 64 :=
  volOf_toNat v ▸ Nat.min_le_right v 64

theorem volPlus_le (v : BitVec 7) (a : Byte) : (volPlus v a).toNat ≤ 64 := by
  have h := volPlus_toNat v a
  have hmem := clamp_mem (v := (v.toNat : Int) + sext a) (lo := 0) (hi := 64) (by decide)
  omega

/-- The volume, the pitch and the instrument of a selected channel (R132). -/
theorem Channel.proceeds_select (x : Channel) {a : Byte} {insCnt : Nat} (h : a.toNat < insCnt) (I : Instrument) :
    x.Proceeds insCnt 2 ((x.select a I).advance 2) := by
  rw [Channel.select_eq]
  exact ⟨rfl, rfl, .inl rfl, rfl, id, fun _ => volOf_le I.defvol, .inr h⟩

/-- A transfer is taken, or the runaway event stops the channel (R119). -/
theorem State.acts_transfer (s : State) (n : Nat) (op lc : Byte) (w : Half) :
    s.Acts n (transfer op { s.cur with lc := lc, pc := w } s) := by
  obtain ⟨-, hraise⟩ | ⟨-, htaken, hcount⟩ := transfer_cases op { s.cur with lc := lc, pc := w } s
  · rw [hraise]
    exact .stops (s.cur.stops_raise (by decide) op)
  · rw [htaken]
    exact .transfers lc w hcount

/-- What an instruction that answers next did. -/
theorem exec_acts {b : Bytecode} {s t : State} (h : exec b.toInstr s = .next t) :
    s.Acts (encode b.toInstr).length t := by
  cases b with
  | endSeq =>
    cases h
    exact .stops (s.cur.stops_halt (by decide) (by decide))
  | note w =>
    cases (exec_note w s).symm.trans h
    exact .proceeds ⟨rfl, rfl, .inl rfl, rfl, fun _ => one_le_pitchOf w, id, .inl ⟨rfl, rfl⟩⟩
  | instr a =>
    obtain hle | hlt := le_or_gt s.dir.insCnt.toNat a.toNat
    · cases (exec_instr_missing hle).symm.trans h
      exact .stops (s.cur.stops_raise (by decide) a)
    · obtain ⟨I, -, hI⟩ := onRead_eq_next.mp ((exec_instr_existing hlt).symm.trans h)
      cases hI
      exact .proceeds (s.cur.proceeds_select hlt I)
  | vol a =>
    cases (exec_vol a s).symm.trans h
    exact .proceeds ⟨rfl, rfl, .inl rfl, rfl, id, fun _ => volOf_le a.toNat, .inl ⟨rfl, rfl⟩⟩
  | volAdd a =>
    cases (exec_voladd a s).symm.trans h
    exact .proceeds ⟨rfl, rfl, .inl rfl, rfl, id, fun _ => volPlus_le s.cur.vol a, .inl ⟨rfl, rfl⟩⟩
  | pitch w =>
    cases (exec_pitch w s).symm.trans h
    exact .proceeds ⟨rfl, rfl, .inl rfl, rfl, fun _ => one_le_pitchOf w, id, .inl ⟨rfl, rfl⟩⟩
  | vib | vibOff | trem | tremOff =>
    cases h
    exact .proceeds ⟨rfl, rfl, .inl rfl, rfl, id, id, .inl ⟨rfl, rfl⟩⟩
  | wait a =>
    cases (exec_wait a s).symm.trans h
    split
    case isTrue => exact .proceeds ⟨rfl, rfl, .inl rfl, rfl, id, id, .inl ⟨rfl, rfl⟩⟩
    case isFalse hne => exact .proceeds ⟨rfl, rfl, .inr ⟨rfl, hne⟩, rfl, id, id, .inl ⟨rfl, rfl⟩⟩
  | jmp w =>
    cases h
    exact s.acts_transfer _ _ s.cur.lc w
  | loop a w =>
    obtain hlast | hagain := le_or_gt (loopCount s.cur.lc a).toNat 1
    · cases (exec_loop_last w hlast).symm.trans h
      exact .proceeds ⟨rfl, rfl, .inl rfl, rfl, id, id, .inl ⟨rfl, rfl⟩⟩
    · cases (exec_loop_again w hagain).symm.trans h
      exact s.acts_transfer _ _ _ w
  | unknown op =>
    cases (exec_unknown op s).symm.trans h
    split
    case isTrue => exact .proceeds ⟨rfl, rfl, .inl rfl, rfl, id, id, .inl ⟨rfl, rfl⟩⟩
    case isFalse => exact .stops (s.cur.stops_raise (by decide) op)

/-! ### What is left unchanged -/

/-- Only the executing channel and the transfer count are written (R49). -/
theorem State.Acts.onlyChan {s t : State} {n : Nat} (h : s.Acts n t) : s.OnlyChan t s.seqr.chan := by
  cases h with
  | proceeds | stops => exact s.onlyChan_setCur _
  | transfers lc w => exact s.setCur_onlyChan _ _

theorem State.Acts.seq {s t : State} {n : Nat} (h : s.Acts n t) : t.cur.seq = s.cur.seq := by
  cases h with
  | proceeds h | stops h =>
    rw [State.cur_setCur]
    exact h.seq
  | transfers lc w => rw [State.cur_jumped]

/-- The slice in progress goes on with the same channel, and no transfer is taken back. -/
theorem State.Acts.seqr {s t : State} {n : Nat} (h : s.Acts n t) :
    t.seqr.chan = s.seqr.chan ∧ t.seqr.active = s.seqr.active ∧ s.seqr.xfers.val ≤ t.seqr.xfers.val := by
  cases h with
  | proceeds | stops => exact ⟨rfl, rfl, Nat.le_refl _⟩
  | transfers lc w hcount => exact ⟨rfl, rfl, hcount ▸ Nat.le_succ _⟩

/-- Entering, leaving or counting in a slice writes no channel. -/
theorem State.onlyChan_seqr (s : State) (q : Sequencer) (c : Fin 4) : s.OnlyChan { s with seqr := q } c :=
  ⟨⟨rfl, fun _ => rfl, rfl, rfl, rfl, rfl, rfl, rfl, rfl, rfl, rfl, rfl, rfl, rfl⟩, fun _ _ => rfl, rfl, rfl, rfl,
    rfl⟩

/-- Settles O27: in each of the three cases. -/
theorem bytecodeWritesOnlyItsOwnChannel : Obligations.BytecodeWritesOnlyItsOwnChannel := by
  intro b s t h
  have hacts := exec_acts h
  exact ⟨hacts.onlyChan, hacts.seq, hacts.seqr⟩

/-! ### A pass of the slice -/

/-- A pass that answers next stopped the channel, or executed an instruction that ends at or before the last offset a
declared length allows (R100, R117). -/
theorem slicePass_acts {s t : State} (h : slicePass execute s = .next t) :
    (∃ y, s.cur.Stops y ∧ t = s.setCur y) ∨
      ∃ n, 1 ≤ n ∧ s.cur.pc.toNat + n < 65536 ∧ s.Acts n t := by
  obtain ⟨e, -, rfl⟩ | ⟨b, n, hfetch, hexec⟩ := slicePass_eq_next h
  · exact .inl ⟨_, s.cur.stops_halt (by decide) (by decide), rfl⟩
  · obtain ⟨S, hS, hpast | ⟨bs, hbs, hdec, hin⟩⟩ := fetch_eq_ok hfetch
    · cases hpast
    · obtain ⟨op, rest, rfl⟩ : ∃ op rest, bs = op :: rest := by
        cases bs with
        | nil => cases hdec
        | cons op rest => exact ⟨op, rest, rfl⟩
      obtain ⟨-, hop⟩ := memReadByte_eq_ok.mp (memReadByte_of_memReadBytes hbs)
      obtain ⟨-, -, hn⟩ := decodeStream_cons_eq_ok.mp hdec.symm
      rw [execute_eq_exec] at hexec
      have hlen := length_of_decodeStream hdec.symm
      have hS' := readSeq_len_lt hS
      have hilen := ilen_mem op
      rw [← hop, hn] at hin
      exact .inr ⟨n, by omega, by omega, hlen ▸ exec_acts hexec⟩

/-- A pass keeps every other channel and everything outside the channels, and its slice stays in progress. -/
theorem slicePass_frame {s t : State} (h : slicePass execute s = .next t) :
    s.OnlyChan t s.seqr.chan ∧ t.seqr.chan = s.seqr.chan ∧ t.seqr.active = s.seqr.active := by
  obtain ⟨y, -, rfl⟩ | ⟨n, -, -, hacts⟩ := slicePass_acts h
  · exact ⟨s.onlyChan_setCur y, rfl, rfl⟩
  · obtain ⟨hchan, hactive, -⟩ := hacts.seqr
    exact ⟨hacts.onlyChan, hchan, hactive⟩

/-- A pass leaves an active channel in a state other than `IDLE`. -/
theorem slicePass_st {s t : State} (h : slicePass execute s = .next t) :
    t.cur.st = s.cur.st ∨ t.cur.st = .waiting ∨ t.cur.st = .stopped := by
  obtain ⟨y, hy, rfl⟩ | ⟨n, -, -, hacts⟩ := slicePass_acts h
  · exact .inr (.inr (by rw [State.cur_setCur, hy.st]))
  · cases hacts with
    | proceeds hy =>
      rw [State.cur_setCur]
      obtain hst | ⟨hst, -⟩ := hy.st
      · exact .inl hst
      · exact .inr (.inl hst)
    | stops hy => exact .inr (.inr (by rw [State.cur_setCur, hy.st]))
    | transfers lc w => exact .inl (by rw [State.cur_jumped])

end Sys2Proof.Machine

/-! ## Slices (40_sequencer.md R116 to R119)

Every slice ends: a pass that leaves its channel `RUNNING` takes a transfer or moves the program counter on. A slice
is the machine stepped, and a jump to itself runs into the bound. -/

namespace Sys2Proof.Machine

/-! ### The bound on the passes -/

/-- More passes than a slice in this state can still make: 65536 for each transfer that is left, and the offsets behind
the program counter. -/
def State.passesLeft (s : State) : Nat := (256 - s.seqr.xfers.val) * 65536 + (65535 - s.cur.pc.toNat)

theorem State.passesLeft_enterSlice (s : State) (c : Fin 4) : (s.enterSlice c).passesLeft < slicePasses := by
  have hxfers : (s.enterSlice c).seqr.xfers.val = 0 := rfl
  unfold State.passesLeft slicePasses
  omega

/-- A pass stops the channel from running, or leaves fewer passes. -/
theorem slicePass_decreases {s t : State} (h : slicePass execute s = .next t) :
    t.cur.st ≠ .running ∨ t.passesLeft < s.passesLeft := by
  obtain ⟨y, hy, rfl⟩ | ⟨n, hn, hpc, hacts⟩ := slicePass_acts h
  · exact .inl (by rw [State.cur_setCur, hy.st]; decide)
  · cases hacts with
    | proceeds hy =>
      have hadd := hy.pc
      refine .inr ?_
      unfold State.passesLeft
      rw [State.cur_setCur, State.setCur_seqr, hadd, BitVec.toNat_add, BitVec.toNat_ofNat]
      omega
    | stops hy => exact .inl (by rw [State.cur_setCur, hy.st]; decide)
    | transfers lc w hcount =>
      have hlt := (s.seqr.xfers + 1).isLt
      refine .inr ?_
      unfold State.passesLeft
      change (256 - (s.seqr.xfers + 1).val) * 65536 + _ < _
      omega

/-! ### A read does not run out of passes -/

/-- The one fault that is not about an address is not among the read's. -/
def NotSliceBound {α : Type} (r : Except Fault α) : Prop := r ≠ .error .sliceBound

theorem NotSliceBound.ok {α : Type} (v : α) : NotSliceBound (.ok v) := nofun

theorem NotSliceBound.bind {α β : Type} {r : Except Fault α} {k : α → Except Fault β} (hr : NotSliceBound r)
    (hk : ∀ v, NotSliceBound (k v)) : NotSliceBound (r >>= k) := by
  cases r with
  | ok v => exact hk v
  | error f => exact fun h => hr (congrArg Except.error (Except.error.inj h))

theorem NotSliceBound.ite {α : Type} {p : Prop} [Decidable p] {r r' : Except Fault α} (hr : NotSliceBound r)
    (hr' : NotSliceBound r') : NotSliceBound (if p then r else r') := by
  split
  case isTrue => exact hr
  case isFalse => exact hr'

theorem notSliceBound_memRead (s : State) (a n : Nat) : NotSliceBound (memRead s a n) :=
  .ite (.ok _) nofun

theorem notSliceBound_memReadByte (s : State) (a : Nat) : NotSliceBound (memReadByte s a) := by
  have h := notSliceBound_memRead s a 1
  unfold memReadByte
  revert h
  cases memRead s a 1 with
  | ok v => exact fun _ => .ok _
  | error f => exact fun h hf => h (congrArg Except.error (Except.error.inj hf))

theorem notSliceBound_memReadBytes (s : State) (a n : Nat) : NotSliceBound (memReadBytes s a n) := by
  induction n generalizing a with
  | zero => exact .ok _
  | succ n ih => exact .bind (notSliceBound_memReadByte s a) fun b => .bind (ih (a + 1)) fun bs => .ok _

theorem notSliceBound_fetch (s : State) (q o : Nat) : NotSliceBound (fetch s q o) := by
  have hseq : NotSliceBound (readSeq s q) :=
    .bind (notSliceBound_memRead s _ _) fun code => .bind (notSliceBound_memRead s _ _) fun len => .ok _
  exact .bind hseq fun S => .ite (.ok _) <| .bind (notSliceBound_memReadByte s _) fun op => .ite (.ok _) <|
    .bind (notSliceBound_memReadBytes s _ _) fun bs => .ok _

theorem notSliceBound_readInstrument (s : State) (i : Nat) : NotSliceBound (readInstrument s i) :=
  .bind (notSliceBound_memRead s _ _) fun _ => .bind (notSliceBound_memRead s _ _) fun _ =>
  .bind (notSliceBound_memRead s _ _) fun _ => .bind (notSliceBound_memReadByte s _) fun _ =>
  .bind (notSliceBound_memReadByte s _) fun _ => .bind (notSliceBound_memReadByte s _) fun _ =>
  .bind (notSliceBound_memReadByte s _) fun _ => .bind (notSliceBound_memReadByte s _) fun _ =>
  .bind (notSliceBound_memReadByte s _) fun _ => .ok _

/-- Every instruction answers next but `INSTR`, which faults where its record lies outside `M`. -/
theorem execute_cases (b : Bytecode) (s : State) : (∃ t, execute b s = .next t) ∨
    ∃ a f, b = .instr a ∧ a.toNat < s.dir.insCnt.toNat ∧ readInstrument s a.toNat = .error f ∧
      execute b s = .fault f := by
  rw [execute_eq_exec]
  cases b with
  | instr a =>
    obtain hle | hlt := le_or_gt s.dir.insCnt.toNat a.toNat
    · exact .inl ⟨_, exec_instr_missing hle⟩
    · have hexec := exec_instr_existing hlt
      cases hI : readInstrument s a.toNat with
      | ok I =>
        rw [hI] at hexec
        exact .inl ⟨_, hexec⟩
      | error f =>
        rw [hI] at hexec
        exact .inr ⟨a, f, rfl, hlt, hI, hexec⟩
  | loop a w =>
    obtain hlast | hagain := le_or_gt (loopCount s.cur.lc a).toNat 1
    · exact .inl ⟨_, exec_loop_last w hlast⟩
    · exact .inl ⟨_, exec_loop_again w hagain⟩
  | unknown op => exact .inl ⟨_, exec_unknown op s⟩
  | _ => exact .inl ⟨_, rfl⟩

theorem slicePass_ne_sliceBound (s : State) : slicePass execute s ≠ .fault .sliceBound := by
  intro h
  obtain herr | ⟨d, -, hrest⟩ := onRead_eq_fault.mp h
  · exact notSliceBound_fetch s _ _ herr
  · cases d with
    | error e => cases hrest
    | ok i =>
      obtain ⟨t, ht⟩ | ⟨a, f, -, -, herr, hfault⟩ := execute_cases i.1 s
      · cases ht.symm.trans hrest
      · cases hfault.symm.trans hrest
        exact notSliceBound_readInstrument s _ herr

/-! ### The loop -/

/-- The loop over a channel that is not `RUNNING` (R116). -/
theorem sliceLoop_of_not_running (n : Nat) {s : State} (h : s.cur.st ≠ .running) :
    sliceLoop n s = .next s.leaveSlice := by
  cases n with
  | zero => exact if_neg h
  | succ n => exact if_neg h

/-- The loop over a `RUNNING` channel makes a pass (R116). -/
theorem sliceLoop_of_running (n : Nat) {s : State} (h : s.cur.st = .running) :
    sliceLoop (n + 1) s = andThen (slicePass execute s) (sliceLoop n) :=
  if_pos h

/-- Enough passes are enough. -/
theorem sliceLoop_ne_sliceBound (n : Nat) (s : State) (hn : s.cur.st = .running → s.passesLeft < n) :
    sliceLoop n s ≠ .fault .sliceBound := by
  induction n generalizing s with
  | zero =>
    have hr : s.cur.st ≠ .running := fun hr => absurd (hn hr) (Nat.not_lt_zero _)
    rw [sliceLoop_of_not_running 0 hr]
    nofun
  | succ n ih =>
    by_cases hr : s.cur.st = .running
    · rw [sliceLoop_of_running n hr]
      intro h
      obtain hpass | ⟨u, hu, hloop⟩ := andThen_eq_fault.mp h
      · exact slicePass_ne_sliceBound s hpass
      · refine ih u (fun hur => ?_) hloop
        obtain hstop | hless := slicePass_decreases hu
        · exact absurd hur hstop
        · have hleft := hn hr
          omega
    · rw [sliceLoop_of_not_running _ hr]
      nofun

theorem slice_ne_sliceBound (c : Fin 4) (s : State) : slice c s ≠ .fault .sliceBound :=
  sliceLoop_ne_sliceBound _ _ fun _ => s.passesLeft_enterSlice c

/-- What a slice that answers next leaves: the end of a run of passes on channel `c`, at which the channel is not
`RUNNING`; nothing outside the channel is written (R116, R44). -/
theorem slice_eq_next {c : Fin 4} {s t : State} (h : slice c s = .next t) :
    s.OnlyChan t c ∧ (t.chan c).st ≠ .running ∧ t.seqr = Sequencer.idle ∧
      ((s.chan c).st ≠ .idle → (t.chan c).st ≠ .idle) := by
  have hpass : ∀ u v : State, (s.OnlyChan u c ∧ u.seqr.chan = c ∧ ((s.chan c).st ≠ .idle → u.cur.st ≠ .idle)) →
      u.cur.st = .running → slicePass execute u = .next v →
      s.OnlyChan v c ∧ v.seqr.chan = c ∧ ((s.chan c).st ≠ .idle → v.cur.st ≠ .idle) := by
    rintro u v ⟨honly, hchan, -⟩ hr hv
    obtain ⟨hframe, hvchan, -⟩ := slicePass_frame hv
    rw [hchan] at hframe hvchan
    refine ⟨honly.trans hframe, hvchan, fun _ => ?_⟩
    obtain hst | hst | hst := slicePass_st hv
    · rw [hst, hr]
      decide
    · rw [hst]
      decide
    · rw [hst]
      decide
  obtain ⟨u, ⟨honly, hchan, hidle⟩, hnot, rfl⟩ :=
    sliceLoop_invariant hpass slicePasses (s.enterSlice c) t ⟨s.onlyChan_seqr _ c, rfl, id⟩ h
  have hcur : u.leaveSlice.chan c = u.cur := by
    rw [State.chan_leaveSlice, ← hchan, State.chan_seqr_chan]
  rw [hcur]
  exact ⟨honly.trans (u.onlyChan_seqr _ c), hnot, rfl, hidle⟩

/-- Settles O29: the passes decrease their bound, and the loop is left only by a channel that is not `RUNNING`. -/
theorem everySliceEndsNotRunning : Obligations.EverySliceEndsNotRunning := by
  refine fun c s => ⟨slice_ne_sliceBound c s, fun t ht => ?_⟩
  obtain ⟨-, hnot, hseqr, hidle⟩ := slice_eq_next ht
  refine ⟨hnot, by rw [hseqr]; rfl, fun hr => ?_⟩
  have hne := hidle (by rw [hr]; decide)
  cases hst : (t.chan c).st with
  | idle => exact absurd hst hne
  | running => exact absurd hst hnot
  | waiting => exact .inl rfl
  | stopped => exact .inr rfl

/-! ### A slice is the machine stepped (log 2) -/

theorem run_succ_of_refused {M : Host.Core} {k : Nat} {s : M.State} {q : M.Refusal} (h : M.step s = .refused q) :
    M.run (k + 1) s = .refused q := by
  rw [Host.Core.run, h]

/-- The loop and the machine stepped agree, as long as the loop does not run out of passes. -/
theorem exists_run_eq_sliceLoop (n : Nat) (s : State) (ha : s.seqr.active = true)
    (hn : sliceLoop n s ≠ .fault .sliceBound) : ∃ k, Host.Core.run core k s = sliceLoop n s := by
  induction n generalizing s with
  | zero =>
    by_cases hr : s.cur.st = .running
    · exact absurd (if_pos hr) hn
    · exact ⟨1, (run_succ_of_next (step_of_not_running ha hr)).trans (sliceLoop_of_not_running 0 hr).symm⟩
  | succ n ih =>
    by_cases hr : s.cur.st = .running
    · have hstep := step_of_running ha hr
      rw [sliceLoop_of_running n hr] at hn ⊢
      cases hpass : slicePass execute s with
      | next u =>
        rw [hpass] at hn hstep
        obtain ⟨-, -, hactive⟩ := slicePass_frame hpass
        obtain ⟨k, hk⟩ := ih u (hactive.trans ha) hn
        exact ⟨k + 1, (run_succ_of_next hstep).trans hk⟩
      | fault f =>
        rw [hpass] at hstep
        exact ⟨1, run_succ_of_fault hstep⟩
      | refused q =>
        rw [hpass] at hstep
        exact ⟨1, run_succ_of_refused hstep⟩
    · exact ⟨1, (run_succ_of_next (step_of_not_running ha hr)).trans (sliceLoop_of_not_running _ hr).symm⟩

/-- Settles O30: pass by pass, and a slice does not run out of passes. -/
theorem sliceEqualsSteppingItsInstructions : Obligations.SliceEqualsSteppingItsInstructions :=
  fun c s => exists_run_eq_sliceLoop slicePasses (s.enterSlice c) rfl (slice_ne_sliceBound c s)

/-! ### The jump to itself (R167, R119) -/

/-- The slice of channel `c` after `k` transfers that left everything else as it was. -/
def State.sliceAt (s : State) (c : Fin 4) (k : Fin 257) : State :=
  { s with seqr := { active := true, chan := c, xfers := k } }

/-- Writing back what stands in the executing channel changes nothing. -/
theorem State.setCur_cur (s : State) : s.setCur s.cur = s := s.setChan_chan s.seqr.chan

/-- Below the bound each pass over the jump takes one transfer, at the bound the event is raised; the passes are those
of the transfers left and two more. -/
theorem sliceLoop_selfJump {s : State} {c : Fin 4} (hr : (s.chan c).st = .running)
    (hfetch : ∀ k, fetchCur (s.sliceAt c k) = .ok (.ok (.jmp (s.chan c).pc, 3))) (j m : Nat) (k : Fin 257)
    (hk : k.val + j = 256) : ∃ q, sliceLoop (m + 2 + j) (s.sliceAt c k) =
      .next { s.setChan c ((s.chan c).raise .runawayLoop 0x0B) with seqr := q } := by
  have hrunning (k : Fin 257) : (s.sliceAt c k).cur.st = .running := hr
  have hpass (k : Fin 257) :
      slicePass execute (s.sliceAt c k) = .next (transfer 0x0B (s.sliceAt c k).cur (s.sliceAt c k)) :=
    slicePass_of_fetch_ok (hfetch k)
  induction j generalizing k with
  | zero =>
    have hraise := transfer_of_limit (s := s.sliceAt c k) 0x0B (s.sliceAt c k).cur hk
    have hstopped : ((s.sliceAt c k).setCur ((s.sliceAt c k).cur.raise .runawayLoop 0x0B)).cur.st ≠ .running := by
      rw [State.cur_setCur, Channel.raise_st]
      decide
    rw [Nat.add_zero, sliceLoop_of_running _ (hrunning k), hpass, hraise, andThen_next,
      sliceLoop_of_not_running _ hstopped]
    exact ⟨_, rfl⟩
  | succ j ih =>
    obtain ⟨htaken, hcount⟩ := transfer_of_lt (s := s.sliceAt c k) 0x0B (s.sliceAt c k).cur
      (show k.val < 256 by omega)
    have hcount : (k + 1).val = k.val + 1 := hcount
    rw [← Nat.add_assoc, sliceLoop_of_running _ (hrunning k), hpass, htaken, State.setCur_cur, andThen_next]
    exact ih (k + 1) (by omega)

/-- Settles O31: every pass fetches the same jump, so the transfers run up to the bound. -/
theorem selfJumpEndsInRunawayLoop : Obligations.SelfJumpEndsInRunawayLoop := by
  intro c s S hr hS hin hbytes
  have hfetch (k : Fin 257) : fetchCur (s.sliceAt c k) = .ok (.ok (.jmp (s.chan c).pc, 3)) :=
    (fetch_congr (t := s.sliceAt c k) rfl rfl rfl _ _).trans
      (fetch_of_encoded (b := .jmp (s.chan c).pc) rfl hS hin hbytes)
  obtain ⟨q, hq⟩ := sliceLoop_selfJump hr hfetch 256 (slicePasses - 258) 0 rfl
  exact ⟨_, hq, s.chan_setChan_self c _, (s.setChan_onlyChan c _).trans (State.onlyChan_seqr _ q c)⟩

end Sys2Proof.Machine

/-! ## The tick (40_sequencer.md R112 to R121; 46_host_commands.md R218)

What a slice, and so a tick, does to a channel depends on that channel, `M`, the directory and the policy alone: two
runs that agree on these answer alike. The two runs may be of two states, or of two channels of one state. -/

namespace Sys2Proof.Machine

/-! ### Runs that answer alike -/

/-- Channel `c` of `s` and channel `c'` of `s'` agree on all that a tick of either depends on (R112, R121). -/
structure State.AgreeAt (s : State) (c : Fin 4) (s' : State) (c' : Fin 4) : Prop where
  par : s.par = s'.par
  mem : s.mem = s'.mem
  dir : s.dir = s'.dir
  unkskip : s.unkskip = s'.unkskip
  chan : s.chan c = s'.chan c'

/-- The same of the executing channels of two slices in progress. -/
structure State.AgreeInSlice (s : State) (c : Fin 4) (s' : State) (c' : Fin 4) : Prop extends s.AgreeAt c s' c' where
  executing : s.seqr.chan = c
  executing' : s'.seqr.chan = c'
  xfers : s.seqr.xfers = s'.seqr.xfers

/-- Two outcomes of one kind, with the same reason, or with next states related by `R`. -/
inductive Alike (R : State → State → Prop) : Result → Result → Prop where
  | next {t t' : State} (h : R t t') : Alike R (.next t) (.next t')
  | fault (f : Fault) : Alike R (.fault f) (.fault f)
  | refused (q : Refusal) : Alike R (.refused q) (.refused q)

theorem Alike.andThen {R Q : State → State → Prop} {r r' : Result} {k k' : State → Result} (h : Alike R r r')
    (hk : ∀ t t', R t t' → Alike Q (k t) (k' t')) : Alike Q (andThen r k) (andThen r' k') := by
  cases h with
  | next h => exact hk _ _ h
  | fault f => exact .fault f
  | refused q => exact .refused q

/-- A read that is the same in both. -/
theorem Alike.onRead {α : Type} {Q : State → State → Prop} {r r' : Except Fault α} {k k' : α → Result} (h : r = r')
    (hk : ∀ v, Alike Q (k v) (k' v)) : Alike Q (onRead r k) (onRead r' k') := by
  subst h
  cases r with
  | ok v => exact hk v
  | error f => exact .fault f

/-- An outcome like a next state is one. -/
theorem Alike.exists_next {R : State → State → Prop} {r' : Result} {t : State} (h : Alike R (.next t) r') :
    ∃ t', r' = .next t' ∧ R t t' := by
  cases h with
  | next h => exact ⟨_, rfl, h⟩

theorem State.AgreeAt.refl (s : State) (c : Fin 4) : s.AgreeAt c s c := ⟨rfl, rfl, rfl, rfl, rfl⟩

theorem State.AgreeAt.trans {s s' s'' : State} {c c' c'' : Fin 4} (h : s.AgreeAt c s' c') (k : s'.AgreeAt c' s'' c'') :
    s.AgreeAt c s'' c'' :=
  ⟨h.par.trans k.par, h.mem.trans k.mem, h.dir.trans k.dir, h.unkskip.trans k.unkskip, h.chan.trans k.chan⟩

theorem State.AgreeAt.setChan {s s' : State} {c c' : Fin 4} (h : s.AgreeAt c s' c') {x x' : Channel} (hx : x = x') :
    (s.setChan c x).AgreeAt c (s'.setChan c' x') c' :=
  ⟨h.par, h.mem, h.dir, h.unkskip, by rw [State.chan_setChan_self, State.chan_setChan_self, hx]⟩

section
variable {s s' : State} {c c' : Fin 4}

theorem State.AgreeInSlice.cur (h : s.AgreeInSlice c s' c') : s.cur = s'.cur := by
  have hchan := h.chan
  rw [← h.executing, ← h.executing'] at hchan
  exact hchan

/-- The same register set written to both executing channels. -/
theorem State.AgreeInSlice.setCur (h : s.AgreeInSlice c s' c') {x x' : Channel} (hx : x = x') :
    (s.setCur x).AgreeInSlice c (s'.setCur x') c' := by
  have hset := h.toAgreeAt.setChan hx
  unfold State.setCur
  rw [h.executing, h.executing']
  exact ⟨hset, h.executing, h.executing', h.xfers⟩

/-- The same transfer in both: the counts agree, so both are taken or both raise the event. -/
theorem State.AgreeInSlice.transfer (h : s.AgreeInSlice c s' c') (op : Byte) {x x' : Channel} (hx : x = x') :
    (transfer op x s).AgreeInSlice c (transfer op x' s') c' := by
  obtain ⟨hlimit, hraise⟩ | ⟨hlt, htaken, -⟩ := transfer_cases op x s
  · rw [hraise, transfer_of_limit op x' (h.xfers ▸ hlimit), h.cur]
    exact h.setCur rfl
  · obtain ⟨htaken', -⟩ := transfer_of_lt op x' (h.xfers ▸ hlt)
    have hset := h.setCur hx
    rw [htaken, htaken']
    exact ⟨⟨hset.par, hset.mem, hset.dir, hset.unkskip, hset.chan⟩, h.executing, h.executing',
      congrArg (· + 1) h.xfers⟩

/-- The same instruction in both. -/
theorem State.AgreeInSlice.execute (h : s.AgreeInSlice c s' c') (b : Bytecode) :
    Alike (fun t t' => t.AgreeInSlice c t' c') (execute b s) (execute b s') := by
  have hcur := h.cur
  cases b with
  | endSeq => exact .next (h.setCur (by rw [hcur]))
  | note w => exact .next (h.setCur (by rw [hcur]))
  | instr a =>
    have hI := readInstrument_congr h.par h.mem h.dir a.toNat
    change Alike _ (execInstr a s) (execInstr a s')
    unfold execInstr
    rw [h.dir]
    split
    case isTrue => exact .next (h.setCur (by rw [hcur]))
    case isFalse => exact .onRead hI fun I => .next (h.setCur (by rw [hcur]))
  | vol a => exact .next (h.setCur (by rw [hcur]))
  | volAdd a => exact .next (h.setCur (by rw [hcur]))
  | pitch w => exact .next (h.setCur (by rw [hcur]))
  | vib a b => exact .next (h.setCur (by rw [hcur]))
  | vibOff => exact .next (h.setCur (by rw [hcur]))
  | trem a b => exact .next (h.setCur (by rw [hcur]))
  | tremOff => exact .next (h.setCur (by rw [hcur]))
  | wait a => exact .next (h.setCur (by rw [hcur]))
  | jmp w => exact .next (h.transfer _ (by rw [hcur]))
  | loop a w =>
    change Alike _ (execLoop a w s) (execLoop a w s')
    simp only [execLoop, hcur]
    split
    case isTrue => exact .next (h.setCur rfl)
    case isFalse => exact .next (h.transfer _ rfl)
  | unknown op =>
    change Alike _ (execUnknown op s) (execUnknown op s')
    unfold execUnknown
    rw [h.unkskip]
    split
    case isTrue => exact .next (h.setCur (by rw [hcur]))
    case isFalse => exact .next (h.setCur (by rw [hcur]))

/-- The same bytes are fetched in both, so the passes are alike. -/
theorem State.AgreeInSlice.slicePass (h : s.AgreeInSlice c s' c') :
    Alike (fun t t' => t.AgreeInSlice c t' c') (slicePass Machine.execute s) (slicePass Machine.execute s') := by
  have hfetch : fetchCur s = fetchCur s' := by
    unfold fetchCur
    rw [h.cur, fetch_congr h.par h.mem h.dir]
  refine .onRead hfetch fun d => ?_
  cases d with
  | error e => exact .next (h.setCur (by rw [h.cur]))
  | ok i => exact h.execute i.1

/-- The rest of the slices: pass by pass. -/
theorem State.AgreeInSlice.sliceLoop (n : Nat) (h : s.AgreeInSlice c s' c') :
    Alike (fun t t' => t.AgreeAt c t' c') (sliceLoop n s) (sliceLoop n s') := by
  have hleave : s.leaveSlice.AgreeAt c s'.leaveSlice c' := ⟨h.par, h.mem, h.dir, h.unkskip, h.chan⟩
  induction n generalizing s s' with
  | zero =>
    rw [sliceLoop_zero, sliceLoop_zero, h.cur]
    split
    case isTrue => exact .fault _
    case isFalse => exact .next hleave
  | succ n ih =>
    rw [sliceLoop_succ, sliceLoop_succ, h.cur]
    split
    case isTrue =>
      exact h.slicePass.andThen fun t t' ht => ih ht ⟨ht.par, ht.mem, ht.dir, ht.unkskip, ht.chan⟩
    case isFalse => exact .next hleave

theorem State.AgreeAt.slice (h : s.AgreeAt c s' c') :
    Alike (fun t t' => t.AgreeAt c t' c') (slice c s) (slice c' s') :=
  State.AgreeInSlice.sliceLoop (s := s.enterSlice c) (s' := s'.enterSlice c') slicePasses
    ⟨⟨h.par, h.mem, h.dir, h.unkskip, h.chan⟩, rfl, rfl, rfl⟩

/-- The ticks of two channels that agree are alike (R113 to R115, R121). -/
theorem State.AgreeAt.chanTick (h : s.AgreeAt c s' c') :
    Alike (fun t t' => t.AgreeAt c t' c') (chanTick c s) (chanTick c' s') := by
  unfold Machine.chanTick
  rw [h.chan]
  split
  case h_1 => exact .next h
  case h_2 => exact .next h
  case h_3 => exact (h.setChan rfl).slice
  case h_4 =>
    dsimp only
    split
    case isTrue => exact .next (h.setChan rfl)
    case isFalse => exact (h.setChan rfl).slice

end

/-! ### One channel's part of a tick -/

/-- The tick of a channel writes that channel alone, leaves it not `RUNNING`, and leaves no slice in progress behind
it (R113 to R116). -/
theorem chanTick_eq_next {c : Fin 4} {s t : State} (h : chanTick c s = .next t) :
    s.OnlyChan t c ∧ (t.chan c).st ≠ .running ∧ (t.seqr = s.seqr ∨ t.seqr = Sequencer.idle) := by
  have hslice (x : Channel) (hx : slice c (s.setChan c x) = .next t) :
      s.OnlyChan t c ∧ (t.chan c).st ≠ .running ∧ (t.seqr = s.seqr ∨ t.seqr = Sequencer.idle) := by
    obtain ⟨honly, hnot, hseqr, -⟩ := slice_eq_next hx
    exact ⟨(s.setChan_onlyChan c x).trans honly, hnot, .inr hseqr⟩
  obtain ⟨hst, heq⟩ | ⟨hst, heq⟩ | ⟨hst, -, heq⟩ | ⟨hst, -, heq⟩ := chanTick_cases c s
  · cases heq.symm.trans h
    refine ⟨.refl s c, ?_, .inl rfl⟩
    rcases hst with hst | hst <;> simp [hst]
  · exact hslice _ (heq.symm.trans h)
  · cases heq.symm.trans h
    refine ⟨s.setChan_onlyChan c _, ?_, .inl rfl⟩
    simp [Channel.advancePhases, hst]
  · exact hslice _ (heq.symm.trans h)

/-- Another channel's tick changes nothing that the tick of channel `c` depends on (R121). -/
theorem chanTick_agreeAt {c d : Fin 4} {s t : State} (h : chanTick d s = .next t) (hne : c ≠ d) :
    t.AgreeAt c s c := by
  obtain ⟨honly, -, -⟩ := chanTick_eq_next h
  exact ⟨honly.setting.par, honly.setting.mem, honly.setting.dir, honly.setting.unkskip, honly.others c hne⟩

/-- After a tick each channel is as its own tick alone, from the state before, leaves it (R112, R121). -/
theorem tick_chan {s t : State} (h : tick s = .next t) (c : Fin 4) :
    ∃ u, chanTick c s = .next u ∧ t.chan c = u.chan c := by
  obtain ⟨s1, s2, s3, h0, h1, h2, h3⟩ := tick_eq_next.mp h
  have hown {v w : State} (hv : v.AgreeAt c s c) (hw : chanTick c v = .next w) (ht : t.AgreeAt c w c) :
      ∃ u, chanTick c s = .next u ∧ t.chan c = u.chan c := by
    obtain ⟨u, hu, hagree⟩ := (hw ▸ hv.chanTick).exists_next
    exact ⟨u, hu, ht.chan.trans hagree.chan⟩
  match c with
  | 0 =>
    exact hown (.refl s 0) h0 (((chanTick_agreeAt h3 (by decide)).trans (chanTick_agreeAt h2 (by decide))).trans
      (chanTick_agreeAt h1 (by decide)))
  | 1 =>
    exact hown (chanTick_agreeAt h0 (by decide)) h1 ((chanTick_agreeAt h3 (by decide)).trans
      (chanTick_agreeAt h2 (by decide)))
  | 2 =>
    exact hown ((chanTick_agreeAt h1 (by decide)).trans (chanTick_agreeAt h0 (by decide))) h2
      (chanTick_agreeAt h3 (by decide))
  | 3 =>
    exact hown (((chanTick_agreeAt h2 (by decide)).trans (chanTick_agreeAt h1 (by decide))).trans
      (chanTick_agreeAt h0 (by decide))) h3 (.refl t 3)

/-- Two channels that agree before a tick are equal after it. -/
theorem State.AgreeAt.chan_tick_eq {s s' t t' : State} {c c' : Fin 4} (h : s.AgreeAt c s' c') (ht : tick s = .next t)
    (ht' : tick s' = .next t') : t.chan c = t'.chan c' := by
  obtain ⟨u, hu, hchan⟩ := tick_chan ht c
  obtain ⟨u', hu', hchan'⟩ := tick_chan ht' c'
  obtain ⟨v, hv, hagree⟩ := (hu ▸ h.chanTick).exists_next
  cases hu'.symm.trans hv
  rw [hchan, hchan', hagree.chan]

/-! ### The whole tick -/

/-- A property of states that the tick of every channel keeps is kept by the tick (R112). -/
theorem tick_invariant {P : State → Prop} (keep : ∀ c s t, P s → chanTick c s = .next t → P t) {s t : State}
    (hs : P s) (h : tick s = .next t) : P t := by
  obtain ⟨s1, s2, s3, h0, h1, h2, h3⟩ := tick_eq_next.mp h
  exact keep 3 _ _ (keep 2 _ _ (keep 1 _ _ (keep 0 _ _ hs h0) h1) h2) h3

/-- Everything but the channels and the slice is as before the tick. -/
theorem tick_frame {s t : State} (h : tick s = .next t) :
    s.SameSetting t ∧ t.result = s.result ∧ t.out = s.out ∧ t.facc = s.facc ∧ t.arg = s.arg ∧
      (t.seqr = s.seqr ∨ t.seqr = Sequencer.idle) := by
  refine tick_invariant (P := fun u => s.SameSetting u ∧ u.result = s.result ∧ u.out = s.out ∧ u.facc = s.facc ∧
    u.arg = s.arg ∧ (u.seqr = s.seqr ∨ u.seqr = Sequencer.idle)) ?_ ⟨.refl s, rfl, rfl, rfl, rfl, .inl rfl⟩ h
  rintro c u v ⟨hset, hres, hout, hfacc, harg, hseqr⟩ hv
  obtain ⟨honly, -, hvseqr⟩ := chanTick_eq_next hv
  refine ⟨hset.trans honly.setting, honly.result.trans hres, honly.out.trans hout, honly.facc.trans hfacc,
    honly.arg.trans harg, ?_⟩
  obtain heq | hidle := hvseqr
  · rwa [heq]
  · exact .inr hidle

/-- The end of a command writes `result` alone. -/
theorem State.sameSetting_succeed (s : State) : s.SameSetting s.succeed :=
  ⟨rfl, fun _ => rfl, rfl, rfl, rfl, rfl, rfl, rfl, rfl, rfl, rfl, rfl, rfl, rfl⟩

/-- `TICK` is the tick, and `result` written (R218). -/
theorem exec_tick_eq_next {s t : State} : exec .tick s = .next t ↔ ∃ u, tick s = .next u ∧ t = u.succeed := by
  refine andThen_eq_next.trans (exists_congr fun u => and_congr_right fun _ => ?_)
  exact ⟨fun h => by cases h; rfl, fun h => h ▸ rfl⟩

/-- Settles O33: the frame of the tick of each channel, and each channel ends not `RUNNING`. -/
theorem tickTouchesChannelsAndResultOnly : Obligations.TickTouchesChannelsAndResultOnly := by
  intro s t h
  obtain ⟨u, hu, rfl⟩ := exec_tick_eq_next.mp h
  obtain ⟨hset, -, hout, hfacc, harg, -⟩ := tick_frame hu
  refine ⟨hset.trans u.sameSetting_succeed, hout, hfacc, harg, rfl, fun c => ?_⟩
  obtain ⟨v, hv, hchan⟩ := tick_chan hu c
  obtain ⟨-, hnot, -⟩ := chanTick_eq_next hv
  rwa [State.chan_succeed, hchan]

/-- Settles O34: what the tick of a channel depends on agrees, so its outcomes are alike. -/
theorem tickOfAChannelDependsOnItselfOnly : Obligations.TickOfAChannelDependsOnItselfOnly := by
  intro s s' t t' c h ht ht'
  obtain ⟨u, hu, rfl⟩ := exec_tick_eq_next.mp ht
  obtain ⟨u', hu', rfl⟩ := exec_tick_eq_next.mp ht'
  have hagree : s.AgreeAt c s' c := ⟨h.par.symm, h.mem.symm, h.dir.symm, h.unkskip.symm, h.chan.symm⟩
  rw [State.chan_succeed, State.chan_succeed]
  exact hagree.chan_tick_eq hu hu'

/-- Both phases advanced modulo 256, as numbers (R113, R153). -/
theorem Channel.advancePhases_eq (x : Channel) : x.advancePhases = { x with
    vph := BitVec.ofNat 8 ((x.vph.toNat + x.vspd.toNat) % 256),
    tph := BitVec.ofNat 8 ((x.tph.toNat + x.tspd.toNat) % 256) } := by
  have hadd (a b : Byte) : BitVec.ofNat 8 ((a.toNat + b.toNat) % 256) = a + b := by
    apply BitVec.eq_of_toNat_eq
    rw [BitVec.toNat_ofNat, BitVec.toNat_add, Nat.mod_mod]
  rw [hadd, hadd]
  rfl

/-- Settles O32: a channel's part of the tick is its own tick, by its state. -/
theorem tickTakesEachChannelByItsState : Obligations.TickTakesEachChannelByItsState := by
  intro s t c h x v w
  obtain ⟨t', ht', rfl⟩ := exec_tick_eq_next.mp h
  obtain ⟨u, hu, hchan⟩ := tick_chan ht' c
  have hphases : x.advancePhases = { x with vph := v, tph := w } := x.advancePhases_eq
  rw [State.chan_succeed, hchan]
  refine ⟨fun hst => ?rests, fun hst hwait => ?countsDown, fun hst hwait => ?wakes, fun hst => ?runs⟩
  case rests =>
    obtain ⟨-, heq⟩ | ⟨hst', -⟩ | ⟨hst', -⟩ | ⟨hst', -⟩ := chanTick_cases c s
    · cases heq.symm.trans hu
      rfl
    all_goals simp [x, hst'] at hst
  case countsDown =>
    obtain ⟨hst', -⟩ | ⟨hst', -⟩ | ⟨-, -, heq⟩ | ⟨-, hone, -⟩ := chanTick_cases c s
    · simp [x, hst] at hst'
    · simp [x, hst] at hst'
    · cases heq.symm.trans hu
      have hpred : BitVec.ofNat 8 (x.wait.toNat - 1) = x.wait - 1 := by bv_omega
      rw [State.chan_setChan_self, hpred]
      exact congrArg (fun y : Channel => { y with wait := x.wait - 1 }) hphases
    · simp [x, hone] at hwait
  case wakes =>
    obtain ⟨hst', -⟩ | ⟨hst', -⟩ | ⟨-, hne, -⟩ | ⟨-, -, heq⟩ := chanTick_cases c s
    · simp [x, hst] at hst'
    · simp [x, hst] at hst'
    · exact absurd (BitVec.eq_of_toNat_eq hwait) hne
    · have hwoken : { x.advancePhases with wait := 0, st := .running } =
          { x with vph := v, tph := w, wait := 0, st := .running } :=
        congrArg (fun y : Channel => { y with wait := 0, st := .running }) hphases
      exact ⟨u, by rw [← hwoken]; exact heq.symm.trans hu, rfl⟩
  case runs =>
    obtain ⟨hst', -⟩ | ⟨-, heq⟩ | ⟨hst', -⟩ | ⟨hst', -⟩ := chanTick_cases c s
    · simp [x, hst] at hst'
    · exact ⟨u, by rw [← hphases]; exact heq.symm.trans hu, rfl⟩
    all_goals simp [x, hst'] at hst

end Sys2Proof.Machine

/-! ## Frames (45_synth_mixer.md R181 to R200; 46_host_commands.md R220)

The cases of a channel's frame, what a frame can do to a channel, and `RENDER` as a run of frames. -/

namespace Sys2Proof.Machine

/-! ### The silent cases (R181, R182) -/

theorem Channel.live_eq_false {x : Channel} (h : x.st = .idle ∨ x.st = .stopped) : x.live = false := by
  rcases h with h | h <;> simp [Channel.live, h]

/-- An active channel with an instrument reads both its records (R181, R192). -/
theorem chanFrame_of_read {s : State} {c : Fin 4} {I : Instrument} {S : Sample} (hlive : (s.chan c).live = true)
    (hins : (s.chan c).insv = true) (hI : readInstrument s (s.chan c).ins.toNat = .ok I)
    (hS : readSample s I.sample = .ok S) : chanFrame s c =
      if (s.chan c).gate = false then .ok (I.silence, s.chan c) else soundFrame s (s.chan c) I S := by
  obtain ⟨hsilent | hsilent, -⟩ | ⟨-, -, hread⟩ := chanFrame_cases s c
  · exact absurd hlive (by simp [hsilent])
  · exact absurd hins (by simp [hsilent])
  · rw [hread, hI]
    change (readSample s I.sample >>= _) = _
    rw [hS]
    rfl

/-- Settles O37: each silent case before the stepper. -/
theorem silentChannelsContributeTheirLevel : Obligations.SilentChannelsContributeTheirLevel := by
  refine fun s c => ⟨fun hst => ?inactive, fun hins => chanFrame_of_no_instrument hins,
    fun I S hst hins hgate hI hS => ?ungated⟩
  case inactive => exact chanFrame_of_not_live (Channel.live_eq_false hst)
  case ungated => rw [chanFrame_of_read ((s.chan c).live_iff.mpr hst) hins hI hS, if_pos hgate]

/-! ### The sounding case (R183 to R191) -/

theorem Channel.sounding_iff {x : Channel} : x.sounding = true ↔ x.live = true ∧ x.insv = true ∧ x.gate = true := by
  simp [Channel.sounding, and_assoc]

theorem chanFrame_of_sounding {s : State} {c : Fin 4} {I : Instrument} {S : Sample}
    (h : (s.chan c).sounding = true) (hI : readInstrument s (s.chan c).ins.toNat = .ok I)
    (hS : readSample s I.sample = .ok S) : chanFrame s c = soundFrame s (s.chan c) I S := by
  obtain ⟨hlive, hins, hgate⟩ := Channel.sounding_iff.mp h
  rw [chanFrame_of_read hlive hins hI hS, if_neg (by simp [hgate])]

/-- The stepper on a looping sample (R188). -/
theorem soundFrame_looping {s : State} {x : Channel} {I : Instrument} {S : Sample} (h : S.loopLength ≠ 0) :
    soundFrame s x I S =
      soundAt s { x with looped := x.looped || (loopWrap S (advancedCursor s.par x I S)).2 } S
        (loopWrap S (advancedCursor s.par x I S)).1 :=
  if_pos h

/-- The stepper on a non-looping sample (R189). -/
theorem soundFrame_oneShot {s : State} {x : Channel} {I : Instrument} {S : Sample} (h : S.loopLength = 0) :
    soundFrame s x I S =
      if S.length * 65536 ≤ advancedCursor s.par x I S then
        .ok (0, { x with curi := BitVec.ofNat 32 S.length, curf := 0 }.halt .sampleEnd)
      else soundAt s x S (advancedCursor s.par x I S) :=
  if_neg (not_not_intro h)

/-- A cursor that is fetched inside `M`: the scaled amplitude, and the cursor written back exactly (R190, R191). -/
theorem soundAt_inside {s : State} {S : Sample} {cur : Nat} (x : Channel) (h : S.data + cur / 65536 < s.par.memSize) :
    soundAt s x S cur =
        .ok ((s.mem.read (S.data + cur / 65536)).toInt * effVol s.par x, x.setCursor cur) ∧
      (x.setCursor cur).curi.toNat = cur / 65536 ∧ (x.setCursor cur).curf.toNat = cur % 65536 := by
  have hok := soundAt_eq_ok (s := s) (x := x) (S := S) (cur := cur).mpr ⟨h, rfl⟩
  rw [sext_eq_toInt] at hok
  exact ⟨hok, x.setCursor_toNat (soundAt_index_lt hok)⟩

/-- A cursor that is fetched beyond `M` (R202, log 6). -/
theorem soundAt_beyond {s : State} {S : Sample} {cur : Nat} (x : Channel) (h : s.par.memSize ≤ S.data + cur / 65536) :
    soundAt s x S cur = .error (.memRead (S.data + cur / 65536) 1) := by
  rw [soundAt, readAmp_eq_error h]
  rfl

/-- The cursor after the loop wrap (R188). -/
theorem loopWrap_cursor (S : Sample) (cur : Nat) : (loopWrap S cur).1 =
    if cur < (S.loopStart + S.loopLength) * 65536 then cur
    else S.loopStart * 65536 + (cur - S.loopStart * 65536) % (S.loopLength * 65536) := by
  simp only [loopWrap, ← Nat.add_mul, ← Nat.not_lt, ite_not]
  split <;> rfl

/-- Whether the cursor wrapped (R188). -/
theorem loopWrap_wrapped (S : Sample) (cur : Nat) :
    (loopWrap S cur).2 = true ↔ (S.loopStart + S.loopLength) * 65536 ≤ cur := by
  simp only [loopWrap, ← Nat.add_mul]
  split
  case isTrue h => simp [h]
  case isFalse h => simp [h]

/-- The cursor after the loop wrap lies below the loop's end. -/
theorem loopWrap_lt {S : Sample} (h : S.loopLength ≠ 0) (cur : Nat) :
    (loopWrap S cur).1 < (S.loopStart + S.loopLength) * 65536 := by
  have hmod := Nat.mod_lt (cur - S.loopStart * 65536) (show S.loopLength * 65536 > 0 by omega)
  rw [loopWrap_cursor]
  split <;> omega

/-- Settles O38: the stepper on a looping sample, at the cursor after the wrap. -/
theorem loopingFrameWrapsIntoTheLoop : Obligations.LoopingFrameWrapsIntoTheLoop := by
  intro s c I S cur pos hsounding hI hS hloop hcur hpos
  have hadv : advancedCursor s.par (s.chan c) I S = cur := hcur.symm
  have hframe := (chanFrame_of_sounding hsounding hI hS).trans (soundFrame_looping hloop)
  rw [← loopWrap_cursor] at hpos
  rw [hadv, ← hpos] at hframe
  refine ⟨hpos ▸ loopWrap_lt hloop cur, fun hin => ?inside, fun hout => hframe.trans (soundAt_beyond _ hout)⟩
  obtain ⟨hok, hcuri, hcurf⟩ :=
    soundAt_inside { s.chan c with looped := (s.chan c).looped || (loopWrap S cur).2 } hin
  refine ⟨_, hframe.trans hok, rfl, hcuri, hcurf, ?_⟩
  rw [← loopWrap_wrapped]
  exact Bool.or_eq_true_iff

/-- Settles O39: the stepper on a non-looping sample, before and at its end. -/
theorem nonLoopingFrameStopsExactlyAtTheEnd : Obligations.NonLoopingFrameStopsExactlyAtTheEnd := by
  intro s c I S cur hsounding hI hS hloop hcur
  have hadv : advancedCursor s.par (s.chan c) I S = cur := hcur.symm
  have hframe := (chanFrame_of_sounding hsounding hI hS).trans (soundFrame_oneShot hloop)
  rw [hadv] at hframe
  refine ⟨fun hend => ?ended, fun hlt hin => ?playing, fun hlt hout => ?beyond⟩
  case ended =>
    obtain ⟨-, rfl⟩ := readSample_eq_ok.mp hS
    exact ⟨hframe.trans (if_pos hend), Memory.value_lt _ _ 4, rfl⟩
  case playing =>
    obtain ⟨hok, hcuri, hcurf⟩ := soundAt_inside (s.chan c) hin
    exact ⟨_, hframe.trans ((if_neg (by omega)).trans hok), rfl, hcuri, hcurf⟩
  case beyond => exact hframe.trans ((if_neg (by omega)).trans (soundAt_beyond _ hout))

/-- Settles O40: the quotient rounded down by its two inequalities, and the saturation. -/
theorem cursorStepIsTheExactQuotientSaturated : Obligations.CursorStepIsTheExactQuotientSaturated := by
  intro p pe rate base
  have hpos : 0 < max base 1 * p.outputRate := Nat.mul_pos (by omega) p.outputRate_ok.1
  have hlow : pe * rate * 65536 / (max base 1 * p.outputRate) * (max base 1 * p.outputRate) ≤ pe * rate * 65536 :=
    Nat.div_mul_le_self _ _
  refine ⟨fun hlt => ?exact, fun hge => ?saturated, rfl⟩
  case exact =>
    have hquot : cursorStep p pe rate base = pe * rate * 65536 / (max base 1 * p.outputRate) :=
      Nat.min_eq_right (by unfold cursorStep at hlt; omega)
    rw [hquot]
    exact ⟨hlow, Nat.lt_mul_of_div_lt (Nat.lt_succ_self _) hpos⟩
  case saturated =>
    have hle : 2 ^ 32 - 1 ≤ pe * rate * 65536 / (max base 1 * p.outputRate) := by
      unfold cursorStep at hge
      omega
    exact ⟨Nat.min_eq_left hle, (Nat.mul_le_mul_right _ hle).trans hlow⟩

/-- Settles O41: in each case of a channel's frame. -/
theorem contributionsStayInRange : Obligations.ContributionsStayInRange :=
  fun _ _ _ _ h => chanFrame_mem h

/-! ### What a frame can do to a channel (R197) -/

/-- `y` is `x` after some frames: the cursor and `looped` apart, only a sounding channel is written, and that one is
stopped at its sample's end. -/
structure Channel.Framed (x y : Channel) : Prop where
  fields : y = { x with curi := y.curi, curf := y.curf, looped := y.looped, st := y.st, stopc := y.stopc }
  ended : (y.st = x.st ∧ y.stopc = x.stopc) ∨ (x.sounding = true ∧ y.st = .stopped ∧ y.stopc = .sampleEnd)

theorem Channel.Framed.refl (x : Channel) : x.Framed x := ⟨rfl, .inl ⟨rfl, rfl⟩⟩

/-- Frames after the sample's end leave the channel stopped. -/
theorem Channel.Framed.trans {x y z : Channel} (h : x.Framed y) (k : y.Framed z) : x.Framed z := by
  refine ⟨?_, ?_⟩
  · rw [k.fields, h.fields]
  · have hlive {v w : Channel} (hst : v.st = w.st) : v.live = w.live := by
      unfold Channel.live
      rw [hst]
    have hinsv : y.insv = x.insv := by rw [h.fields]
    have hgate : y.gate = x.gate := by rw [h.fields]
    obtain ⟨hst, hstopc⟩ | ⟨hsnd, hst, hstopc⟩ := h.ended
    · obtain ⟨hst', hstopc'⟩ | ⟨hsnd', hst', hstopc'⟩ := k.ended
      · exact .inl ⟨hst'.trans hst, hstopc'.trans hstopc⟩
      · refine .inr ⟨?_, hst', hstopc'⟩
        rwa [Channel.sounding, hlive hst, hinsv, hgate] at hsnd'
    · obtain ⟨hst', hstopc'⟩ | ⟨hsnd', -, -⟩ := k.ended
      · exact .inr ⟨hsnd, hst'.trans hst, hstopc'.trans hstopc⟩
      · obtain ⟨hlive', -, -⟩ := Channel.sounding_iff.mp hsnd'
        exact absurd hlive' (by simp [Channel.live, hst])

/-- The fetch writes the cursor alone. -/
theorem soundAt_framed {s : State} {x z : Channel} {S : Sample} {cur : Nat} {k : Int} {b : Bool}
    (h : soundAt s { x with looped := b } S cur = .ok (k, z)) : x.Framed z := by
  obtain ⟨-, heq⟩ := soundAt_eq_ok.mp h
  cases heq
  exact ⟨rfl, .inl ⟨rfl, rfl⟩⟩

/-- What one frame does to a channel. -/
theorem chanFrame_framed {s : State} {c : Fin 4} {k : Int} {y : Channel} (h : chanFrame s c = .ok (k, y)) :
    (s.chan c).Framed y := by
  obtain ⟨-, hsilent⟩ | ⟨hlive, hins, hread⟩ := chanFrame_cases s c
  · cases hsilent.symm.trans h
    exact .refl _
  · obtain ⟨I, -, hrest⟩ := bind_eq_ok.mp (hread.symm.trans h)
    obtain ⟨S, -, hrest⟩ := bind_eq_ok.mp hrest
    split at hrest
    case isTrue =>
      cases hrest
      exact .refl _
    case isFalse hgate =>
      by_cases hloop : S.loopLength = 0
      · rw [soundFrame_oneShot hloop] at hrest
        split at hrest
        case isTrue =>
          cases hrest
          exact ⟨rfl, .inr ⟨Channel.sounding_iff.mpr ⟨hlive, hins, by simpa using hgate⟩, rfl, rfl⟩⟩
        case isFalse => exact soundAt_framed (b := (s.chan c).looped) hrest
      · rw [soundFrame_looping hloop] at hrest
        exact soundAt_framed hrest

/-- What holds of each of the four channels holds of all. -/
theorem forall_channel {P : Fin 4 → Prop} (h0 : P 0) (h1 : P 1) (h2 : P 2) (h3 : P 3) (c : Fin 4) : P c := by
  match c with
  | 0 => exact h0
  | 1 => exact h1
  | 2 => exact h2
  | 3 => exact h3

/-- A frame that answers next is the frames of its four channels on the state before it (R180, R197). -/
theorem exists_chanFrames_of_frame {s t : State} (h : frame s = .next t) :
    ∃ (k : Fin 4 → Int) (y : Fin 4 → Channel), (∀ c, chanFrame s c = .ok (k c, y c)) ∧
      t = { s with ch := ⟨y 0, y 1, y 2, y 3⟩, out := s.out ++ mixWords s.mono (k 0, k 1, k 2, k 3) } := by
  obtain ⟨r0, r1, r2, r3, h0, h1, h2, h3, rfl⟩ := frame_eq_next h
  rw [chanFrame_setChan_ne _ (by decide)] at h1
  rw [chanFrame_setChan_ne _ (by decide), chanFrame_setChan_ne _ (by decide)] at h2
  rw [chanFrame_setChan_ne _ (by decide), chanFrame_setChan_ne _ (by decide),
    chanFrame_setChan_ne _ (by decide)] at h3
  exact ⟨![r0.1, r1.1, r2.1, r3.1], ![r0.2, r1.2, r2.2, r3.2], forall_channel h0 h1 h2 h3, rfl⟩

/-- After a frame each channel is as its own frame leaves it. -/
theorem frame_chan {s t : State} (h : frame s = .next t) (c : Fin 4) :
    ∃ k, chanFrame s c = .ok (k, t.chan c) := by
  obtain ⟨k, y, hframes, rfl⟩ := exists_chanFrames_of_frame h
  have hget : ∀ d, (Channels.mk (y 0) (y 1) (y 2) (y 3)).get d = y d := forall_channel rfl rfl rfl rfl
  exact ⟨k c, (hframes c).trans (by rw [State.chan, hget])⟩

theorem mixWords_length (mono : Bool) (k : Int × Int × Int × Int) :
    (mixWords mono k).length = if mono = true then 1 else 2 := by
  cases mono <;> rfl

/-! ### A run of frames (R200, R220) -/

/-- What `n` frames write: words, and the channels' frames. -/
structure State.Rendered (n : Nat) (s t : State) : Prop where
  setting : s.SameSetting t
  result : t.result = s.result
  facc : t.facc = s.facc
  arg : t.arg = s.arg
  seqr : t.seqr = s.seqr
  words : ∃ ws, t.out = s.out ++ ws ∧ ws.length = (if s.mono = true then 1 else 2) * n
  chans : ∀ c, (s.chan c).Framed (t.chan c)

theorem frame_rendered {s t : State} (h : frame s = .next t) : s.Rendered 1 t := by
  have hchans (c : Fin 4) : (s.chan c).Framed (t.chan c) := by
    obtain ⟨k, hk⟩ := frame_chan h c
    exact chanFrame_framed hk
  obtain ⟨k, y, -, rfl⟩ := exists_chanFrames_of_frame h
  exact ⟨⟨rfl, fun _ => rfl, rfl, rfl, rfl, rfl, rfl, rfl, rfl, rfl, rfl, rfl, rfl, rfl⟩, rfl, rfl, rfl, rfl,
    ⟨_, rfl, by rw [mixWords_length, Nat.mul_one]⟩, hchans⟩

theorem State.Rendered.trans {m n : Nat} {s t u : State} (h : s.Rendered m t) (k : t.Rendered n u) :
    s.Rendered (m + n) u := by
  refine ⟨h.setting.trans k.setting, k.result.trans h.result, k.facc.trans h.facc, k.arg.trans h.arg,
    k.seqr.trans h.seqr, ?_, fun c => (h.chans c).trans (k.chans c)⟩
  obtain ⟨ws, hout, hlen⟩ := h.words
  obtain ⟨vs, hout', hlen'⟩ := k.words
  refine ⟨ws ++ vs, by rw [hout', hout, List.append_assoc], ?_⟩
  rw [List.length_append, hlen, hlen', h.setting.mono, Nat.mul_add]

/-- What `RENDER`'s frames write (R200). -/
theorem renderFrames_rendered (n : Nat) {s t : State} (h : renderFrames n s = .next t) : s.Rendered n t := by
  refine renderFrames_induct (P := State.Rendered) (fun s => ?_) (fun n s u t hu ht => ?_) n s t h
  · exact ⟨.refl s, rfl, rfl, rfl, rfl, ⟨[], by simp⟩, fun c => .refl _⟩
  · exact Nat.add_comm 1 n ▸ (frame_rendered hu).trans ht

/-- The states of a run, the first of them put before the rest. -/
def consState (s : State) (σ : Nat → State) : Nat → State
  | 0 => s
  | k + 1 => σ k

/-- `n` frames answer next exactly when there is a run of `n` frames (R200). -/
theorem renderFrames_eq_next_iff (n : Nat) (s t : State) : renderFrames n s = .next t ↔
    ∃ σ : Nat → State, σ 0 = s ∧ (∀ k < n, frame (σ k) = .next (σ (k + 1))) ∧ t = σ n := by
  induction n generalizing s with
  | zero =>
    rw [renderFrames_zero]
    constructor
    · intro h
      cases h
      exact ⟨fun _ => _, rfl, nofun, rfl⟩
    · rintro ⟨σ, rfl, -, rfl⟩
      rfl
  | succ n ih =>
    rw [renderFrames_succ, andThen_eq_next]
    constructor
    · rintro ⟨u, hu, ht⟩
      obtain ⟨σ, rfl, hrun, rfl⟩ := (ih u).mp ht
      refine ⟨consState s σ, rfl, fun k hk => ?_, rfl⟩
      cases k with
      | zero => exact hu
      | succ k => exact hrun k (by omega)
    · rintro ⟨σ, rfl, hrun, rfl⟩
      exact ⟨σ 1, hrun 0 (by omega), (ih (σ 1)).mpr ⟨fun k => σ (k + 1), rfl, fun k hk => hrun (k + 1) (by omega), rfl⟩⟩

/-- `RENDER` is its frames, and `result` written (R220). -/
theorem exec_render_eq_next {s t : State} :
    exec .render s = .next t ↔ ∃ u, renderFrames s.arg[0].toNat s = .next u ∧ t = u.succeed := by
  refine andThen_eq_next.trans (exists_congr fun u => and_congr_right fun _ => ?_)
  exact ⟨fun h => by cases h; rfl, fun h => h ▸ rfl⟩

/-- Settles O43: a run of frames, none of them, and what all of them write. -/
theorem renderIsItsFramesOneAfterTheOther : Obligations.RenderIsItsFramesOneAfterTheOther := by
  refine ⟨fun s t => ?run, fun s hzero => ?none, fun s t h => ?frame⟩
  case run =>
    simp only [exec_render_eq_next, renderFrames_eq_next_iff]
    constructor
    · rintro ⟨u, ⟨σ, hstart, hrun, rfl⟩, rfl⟩
      exact ⟨σ, hstart, hrun, rfl⟩
    · rintro ⟨σ, hstart, hrun, rfl⟩
      exact ⟨_, ⟨σ, hstart, hrun, rfl⟩, rfl⟩
  case none => exact exec_render_eq_next.mpr ⟨s, by rw [hzero]; rfl, rfl⟩
  case frame =>
    obtain ⟨u, hu, rfl⟩ := exec_render_eq_next.mp h
    have hr := renderFrames_rendered _ hu
    exact ⟨hr.setting.trans u.sameSetting_succeed, hr.facc, hr.arg, hr.seqr, rfl, hr.words,
      fun c => ⟨(hr.chans c).fields, (hr.chans c).ended⟩⟩

/-- A frame that leaves every channel as it is adds its words and nothing else (R182). -/
theorem renderFrames_constant {s : State} {k : Fin 4 → Int} (h : ∀ c, chanFrame s c = .ok (k c, s.chan c)) (n : Nat)
    (o : List Half) : renderFrames n { s with out := o } =
      .next { s with out := o ++ (List.replicate n (mixWords s.mono (k 0, k 1, k 2, k 3))).flatten } := by
  induction n generalizing o with
  | zero => simp
  | succ n ih =>
    have hframe : frame { s with out := o } =
        .next { s with out := o ++ mixWords s.mono (k 0, k 1, k 2, k 3) } :=
      frame_of_chanFrames (s := { s with out := o }) (y := s.chan) fun c =>
        (chanFrame_congr rfl rfl rfl rfl).trans (h c)
    rw [renderFrames_succ, hframe, andThen_next, ih, List.replicate_succ, List.flatten_cons, List.append_assoc]

/-- Settles O44: each frame adds the words of the standing channels. -/
theorem silenceRendersAConstantLevel : Obligations.SilenceRendersAConstantLevel := by
  intro s k0 k1 k2 k3 h0 h1 h2 h3
  have hstand : ∀ c, chanFrame s c = .ok (![k0, k1, k2, k3] c, s.chan c) := forall_channel h0 h1 h2 h3
  exact exec_render_eq_next.mpr ⟨_, renderFrames_constant hstand s.arg[0].toNat s.out, rfl⟩

end Sys2Proof.Machine

/-! ## The host commands LOAD, START and RUNTICK (46_host_commands.md R212, R214, R226)

The check of `LOAD` in terms of the bytes in `M`, the sequences `START` assigns, and the pacing of `RUNTICK`. -/

namespace Sys2Proof.Machine

/-! ### `LOAD` (R212) -/

/-- The low half of an argument register. -/
theorem lowHalf_eq (v : Word) : lowHalf v = BitVec.ofNat 16 v.toNat := by
  apply BitVec.eq_of_toNat_eq
  rw [lowHalf, BitVec.extractLsb'_toNat, Nat.shiftRight_zero, BitVec.toNat_ofNat]

theorem lowHalf_toNat (v : Word) : (lowHalf v).toNat = v.toNat % 65536 := by
  rw [lowHalf_eq, BitVec.toNat_ofNat]

theorem loadBegin_insCnt (s : State) : (loadBegin s).dir.insCnt.toNat = s.arg[3].toNat % 65536 :=
  lowHalf_toNat s.arg[3]

theorem loadBegin_smpCnt (s : State) : (loadBegin s).dir.smpCnt.toNat = s.arg[1].toNat % 65536 :=
  lowHalf_toNat s.arg[1]

/-- The identifier that the check reads for instrument `i`: that of the table the arguments name. -/
theorem memRead_loadBegin {s : State} {i : Nat} (h : s.arg[2].toNat + 16 * i + 2 ≤ s.par.memSize) :
    memRead (loadBegin s) (insAddr (loadBegin s) i) 2 = .ok (s.mem.value (s.arg[2].toNat + 16 * i) 2) :=
  memRead_eq_ok.mpr ⟨h, rfl⟩

/-- `LOAD` whose check finds nothing. -/
theorem exec_load_of_none {s : State} (h : findDangling (loadBegin s) 0 (loadBegin s).dir.insCnt.toNat = .ok none) :
    exec .load s = .next { loadBegin s with loaded := true, result := .ok } := by
  change onRead (findDangling (loadBegin s) 0 (loadBegin s).dir.insCnt.toNat) _ = _
  rw [h]
  rfl

/-- `LOAD` whose check finds an instrument. -/
theorem exec_load_of_some {s : State} {bad : Nat × Nat}
    (h : findDangling (loadBegin s) 0 (loadBegin s).dir.insCnt.toNat = .ok (some bad)) :
    exec .load s = .next { loadBegin s with
      lderrRec := BitVec.ofNat 16 bad.1, lderrRef := BitVec.ofNat 16 bad.2,
      dir := Directory.zero, result := .loadError } := by
  change onRead (findDangling (loadBegin s) 0 (loadBegin s).dir.insCnt.toNat) _ = _
  rw [h]
  rfl

/-- What `LOAD` answers is one of the two. -/
theorem exec_load_eq_next {s t : State} (h : exec .load s = .next t) :
    (findDangling (loadBegin s) 0 (loadBegin s).dir.insCnt.toNat = .ok none ∧
      t = { loadBegin s with loaded := true, result := .ok }) ∨
    ∃ bad : Nat × Nat, t = { loadBegin s with
      lderrRec := BitVec.ofNat 16 bad.1, lderrRef := BitVec.ofNat 16 bad.2,
      dir := Directory.zero, result := .loadError } := by
  obtain ⟨found, hfound, -⟩ := onRead_eq_next.mp h
  cases found with
  | none =>
    cases (exec_load_of_none hfound).symm.trans h
    exact .inl ⟨hfound, rfl⟩
  | some bad =>
    cases (exec_load_of_some hfound).symm.trans h
    exact .inr ⟨bad, rfl⟩

/-- Settles O46: the check reads every identifier and finds nothing. -/
theorem loadAcceptsDataWithoutDanglingReferences : Obligations.LoadAcceptsDataWithoutDanglingReferences := by
  intro s h
  have hfound : findDangling (loadBegin s) 0 (loadBegin s).dir.insCnt.toNat = .ok none := by
    refine findDangling_eq_none.mpr fun i hi => ?_
    rw [loadBegin_insCnt] at hi
    obtain ⟨hin, hlt⟩ := h i hi
    rw [Nat.zero_add, loadBegin_smpCnt]
    exact ⟨_, memRead_loadBegin hin, hlt⟩
  rw [exec_load_of_none hfound]
  simp only [← lowHalf_eq]
  rfl

/-- Settles O47: the check reads the identifiers up to the first at fault. -/
theorem loadReportsTheLowestDanglingReference : Obligations.LoadReportsTheLowestDanglingReference := by
  intro s i hi hin hlow hbad
  rw [← loadBegin_insCnt] at hi
  rw [← loadBegin_smpCnt] at hbad
  have hread : memRead (loadBegin s) (insAddr (loadBegin s) (0 + i)) 2 =
      .ok (s.mem.value (s.arg[2].toNat + 16 * i) 2) := by
    rw [Nat.zero_add]
    exact memRead_loadBegin (hin i (Nat.le_refl i))
  have hbelow : ∀ l < i, ∃ r, memRead (loadBegin s) (insAddr (loadBegin s) (0 + l)) 2 = .ok r ∧
      r < (loadBegin s).dir.smpCnt.toNat := by
    intro l hl
    rw [Nat.zero_add, loadBegin_smpCnt]
    exact ⟨_, memRead_loadBegin (hin l hl.le), hlow l hl⟩
  have hfound := findDangling_eq_some hi hread hbad hbelow
  rw [Nat.zero_add] at hfound
  exact ⟨exec_load_of_some hfound, rfl⟩

/-! ### `START` (R214) -/

/-- The register sets that `START` leaves for four sequence identifiers. -/
def startedChannels (q : Fin 4 → Nat) : Channels :=
  ⟨Channel.started (q 0), Channel.started (q 1), Channel.started (q 2), Channel.started (q 3)⟩

theorem startedChannels_get (q : Fin 4 → Nat) (c : Fin 4) : (startedChannels q).get c = Channel.started (q c) :=
  forall_channel (P := fun c => (startedChannels q).get c = Channel.started (q c)) rfl rfl rfl rfl c

/-- The sound's four identifiers are read one by one (R74). -/
theorem readSoundSeqs_eq_ok {s : State} {i : Nat} {v : Vector Nat 4} : readSoundSeqs s i = .ok v ↔
    ∃ q : Fin 4 → Nat, (∀ c : Fin 4, readSound s i c.val = .ok (q c)) ∧ v = #v[q 0, q 1, q 2, q 3] := by
  simp only [readSoundSeqs, bind_eq_ok]
  constructor
  · rintro ⟨q0, h0, q1, h1, q2, h2, q3, h3, h⟩
    cases h
    exact ⟨![q0, q1, q2, q3], forall_channel h0 h1 h2 h3, rfl⟩
  · rintro ⟨q, h, rfl⟩
    exact ⟨_, h 0, _, h 1, _, h 2, _, h 3, rfl⟩

/-- `START` of a sound that does not exist. -/
theorem exec_start_of_no_sound {s : State} (h : s.dir.sndCnt.toNat ≤ s.arg[0].toNat % 65536) :
    exec .start s = .next { s with result := .notFound } := by
  rw [← lowHalf_toNat] at h
  exact if_pos h

/-- `START` of a sound that exists: its identifiers are read first. -/
theorem exec_start_of_sound {s : State} (h : s.arg[0].toNat % 65536 < s.dir.sndCnt.toNat) :
    exec .start s = onRead (readSoundSeqs s (s.arg[0].toNat % 65536)) fun q =>
      if seqMissing s q[0] || seqMissing s q[1] || seqMissing s q[2] || seqMissing s q[3] then
        .next { s with result := .notFound }
      else .next { s with
        ch := ⟨Channel.started q[0], Channel.started q[1], Channel.started q[2], Channel.started q[3]⟩,
        facc := 0, sndId := lowHalf s.arg[0], sndValid := true, result := .ok } := by
  rw [← lowHalf_toNat] at h ⊢
  exact if_neg (by omega)

theorem seqMissing_iff {s : State} {q : Nat} :
    seqMissing s q = true ↔ q ≠ 0xFFFF ∧ s.dir.seqCnt.toNat ≤ q :=
  decide_eq_true_iff

/-- `START` of a sound whose identifiers were read: all its sequences are assigned, or nothing is. -/
theorem exec_start_of_reads {s : State} {q : Fin 4 → Nat} (h : s.arg[0].toNat % 65536 < s.dir.sndCnt.toNat)
    (hq : ∀ c : Fin 4, readSound s (s.arg[0].toNat % 65536) c.val = .ok (q c)) : exec .start s =
      if ∃ c, q c ≠ 0xFFFF ∧ s.dir.seqCnt.toNat ≤ q c then .next { s with result := .notFound }
      else .next { s with
        ch := startedChannels q, facc := 0, sndId := BitVec.ofNat 16 s.arg[0].toNat, sndValid := true,
        result := .ok } := by
  have hmissing : (seqMissing s (q 0) || seqMissing s (q 1) || seqMissing s (q 2) || seqMissing s (q 3)) = true ↔
      ∃ c, q c ≠ 0xFFFF ∧ s.dir.seqCnt.toNat ≤ q c := by
    simp [seqMissing_iff, Fin.exists_fin_succ, or_assoc]
  rw [exec_start_of_sound h, readSoundSeqs_eq_ok.mpr ⟨q, hq, rfl⟩, ← lowHalf_eq]
  exact if_congr hmissing rfl rfl

/-- What `START` answers: nothing was assigned, or every channel was started with a sequence that exists. -/
theorem exec_start_eq_next {s t : State} (h : exec .start s = .next t) : t = { s with result := .notFound } ∨
    ∃ q : Fin 4 → Nat, (∀ c, q c < 65536 ∧ (q c = 0xFFFF ∨ q c < s.dir.seqCnt.toNat)) ∧
      t = { s with
        ch := startedChannels q, facc := 0, sndId := BitVec.ofNat 16 s.arg[0].toNat, sndValid := true,
        result := .ok } := by
  obtain hno | hsound := le_or_gt s.dir.sndCnt.toNat (s.arg[0].toNat % 65536)
  · cases (exec_start_of_no_sound hno).symm.trans h
    exact .inl rfl
  · obtain ⟨v, hv, -⟩ := onRead_eq_next.mp ((exec_start_of_sound hsound).symm.trans h)
    obtain ⟨q, hq, -⟩ := readSoundSeqs_eq_ok.mp hv
    rw [exec_start_of_reads hsound hq] at h
    split at h
    case isTrue =>
      cases h
      exact .inl rfl
    case isFalse hfound =>
      cases h
      refine .inr ⟨q, fun c => ⟨memRead_lt (hq c), ?_⟩, rfl⟩
      by_contra hnot
      exact hfound ⟨c, by omega, by omega⟩

/-- Settles O48: every sequence exists, so the channels are started. -/
theorem startAssignsTheSoundsSequences : Obligations.StartAssignsTheSoundsSequences := by
  intro s q hlt hq hexist
  have hfound : ¬ ∃ c, q c ≠ 0xFFFF ∧ s.dir.seqCnt.toNat ≤ q c := by
    rintro ⟨c, hne, hle⟩
    rcases hexist c with heq | hlt
    · exact hne heq
    · omega
  exact ⟨_, (exec_start_of_reads hlt hq).trans (if_neg hfound), fun c => startedChannels_get q c, rfl⟩

/-- Settles O49: the sound or one of its sequences is missing. -/
theorem failedStartWritesResultOnly : Obligations.FailedStartWritesResultOnly := by
  intro s q h
  refine ⟨?_, rfl⟩
  obtain hno | hsound := le_or_gt s.dir.sndCnt.toNat (s.arg[0].toNat % 65536)
  · exact exec_start_of_no_sound hno
  · obtain hno | ⟨hq, hmissing⟩ := h
    · omega
    · exact (exec_start_of_reads hsound hq).trans (if_pos hmissing)

/-! ### `RUNTICK` (R226) -/

/-- `RUNTICK` in its parts: the tick, the frames due by the accumulator before it, and their number to `arg[0]`. -/
theorem exec_runtick_eq_next {s t : State} : exec .runtick s = .next t ↔
    ∃ u v, tick s = .next u ∧
      renderFrames ((s.facc.toNat + s.par.fptQ16) / 65536)
        { u with facc := BitVec.ofNat 16 ((s.facc.toNat + s.par.fptQ16) % 65536) } = .next v ∧
      t = { v with
        arg := v.arg.set 0 (BitVec.ofNat 32 ((s.facc.toNat + s.par.fptQ16) / 65536)), result := .ok } := by
  have hdebt {u : State} (hu : tick s = .next u) : frameDebt u = s.facc.toNat + s.par.fptQ16 := by
    obtain ⟨hset, -, -, hfacc, -, -⟩ := tick_frame hu
    rw [frameDebt, hfacc, hset.par]
  change andThen _ _ = _ ↔ _
  simp only [andThen_eq_next, Host.Outcome.next.injEq]
  constructor
  · rintro ⟨u, hu, v, hv, rfl⟩
    rw [hdebt hu] at hv ⊢
    exact ⟨u, v, hu, hv, rfl⟩
  · rintro ⟨u, v, hu, hv, rfl⟩
    refine ⟨u, hu, v, ?_⟩
    rw [hdebt hu]
    exact ⟨hv, rfl⟩

/-- A frame neither reads nor writes the arguments and `result`. -/
theorem frame_with_args {s t : State} (h : frame s = .next t) (a : Vector Word 8) (r : CmdResult) :
    frame { s with arg := a, result := r } = .next { t with arg := a, result := r } := by
  obtain ⟨k, y, hframes, rfl⟩ := exists_chanFrames_of_frame h
  exact frame_of_chanFrames fun c => (chanFrame_congr rfl rfl rfl rfl).trans (hframes c)

theorem renderFrames_with_args {n : Nat} {s t : State} (h : renderFrames n s = .next t) (a : Vector Word 8)
    (r : CmdResult) :
    renderFrames n { s with arg := a, result := r } = .next { t with arg := a, result := r } := by
  refine renderFrames_induct
    (P := fun n s t => renderFrames n { s with arg := a, result := r } = .next { t with arg := a, result := r })
    (fun s => rfl) (fun n s u t hu ht => ?_) n s t h
  rw [renderFrames_succ, frame_with_args hu, andThen_next]
  exact ht

/-- Settles O51: the frames of `RENDER` are those of `RUNTICK`, which writes `arg[0]` and `result` after them. -/
theorem runtickIsTickThenRenderOfTheFramesDue : Obligations.RuntickIsTickThenRenderOfTheFramesDue := by
  rintro s u t n htick rfl hrender
  obtain ⟨u, hu, rfl⟩ := exec_tick_eq_next.mp htick
  obtain ⟨v, hv, rfl⟩ := exec_render_eq_next.mp hrender
  have hfpt := s.par.fptQ16_ok.2
  have hfacc := s.facc.isLt
  have hcount : (BitVec.ofNat 32 ((s.facc.toNat + s.par.fptQ16) / 65536)).toNat =
      (s.facc.toNat + s.par.fptQ16) / 65536 := by
    rw [BitVec.toNat_ofNat]
    omega
  simp only [Vector.getElem_set_self, hcount] at hv
  have hargs : v.arg = u.arg.set 0 (BitVec.ofNat 32 ((s.facc.toNat + s.par.fptQ16) / 65536)) :=
    (renderFrames_rendered _ hv).arg
  refine exec_runtick_eq_next.mpr ⟨u, _, hu, renderFrames_with_args hv u.arg u.result, ?_⟩
  change { v with result := .ok } = { v with arg := u.arg.set 0 _, result := .ok }
  rw [← hargs]

/-- What one `RUNTICK` does to the accumulator and to the number of words. -/
theorem runtick_paces {s t : State} (h : exec .runtick s = .next t) :
    t.par = s.par ∧ t.mono = s.mono ∧ t.facc.toNat = (s.facc.toNat + s.par.fptQ16) % 65536 ∧
      t.out.length = s.out.length + (if s.mono = true then 1 else 2) * ((s.facc.toNat + s.par.fptQ16) / 65536) := by
  obtain ⟨u, v, hu, hv, rfl⟩ := exec_runtick_eq_next.mp h
  obtain ⟨hset, -, hout, -, -, -⟩ := tick_frame hu
  have hr := renderFrames_rendered _ hv
  obtain ⟨ws, hwords, hlen⟩ := hr.words
  refine ⟨hr.setting.par.trans hset.par, hr.setting.mono.trans hset.mono, ?_, ?_⟩
  · change v.facc.toNat = _
    rw [hr.facc, BitVec.toNat_ofNat, Nat.mod_mod]
  · change v.out.length = _
    rw [hwords, List.length_append, hlen, ← hset.mono]
    exact congrArg (·.length + _) hout

/-- Settles O52: by induction on the number of `RUNTICK`s; the remainder kept in `facc` is the remainder of the whole
sum. -/
theorem runtickPacingDoesNotDrift : Obligations.RuntickPacingDoesNotDrift := by
  intro σ N hrun
  suffices h : (σ N).par = (σ 0).par ∧ (σ N).mono = (σ 0).mono ∧
      (σ N).facc.toNat = ((σ 0).facc.toNat + N * (σ 0).par.fptQ16) % 65536 ∧
      (σ N).out.length = (σ 0).out.length
        + (if (σ 0).mono = true then 1 else 2) * (((σ 0).facc.toNat + N * (σ 0).par.fptQ16) / 65536) from h.2.2
  induction N with
  | zero =>
    have hfacc := (σ 0).facc.isLt
    refine ⟨rfl, rfl, ?_, ?_⟩
    · omega
    · rw [Nat.zero_mul, Nat.add_zero, Nat.div_eq_of_lt hfacc, Nat.mul_zero, Nat.add_zero]
  | succ N ih =>
    obtain ⟨hpar, hmono, hfacc, hlen⟩ := ih fun k hk => hrun k (by omega)
    obtain ⟨hpar', hmono', hfacc', hlen'⟩ := runtick_paces (hrun N (Nat.lt_succ_self N))
    rw [hpar, hfacc] at hfacc' hlen'
    have hsum : (σ 0).facc.toNat + (N + 1) * (σ 0).par.fptQ16 =
        (σ 0).facc.toNat + N * (σ 0).par.fptQ16 + (σ 0).par.fptQ16 := by
      rw [Nat.succ_mul, Nat.add_assoc]
    have hframes (d p : Nat) : d / 65536 + (d % 65536 + p) / 65536 = (d + p) / 65536 := by omega
    refine ⟨hpar'.trans hpar, hmono'.trans hmono, ?_, ?_⟩
    · rw [hfacc', hsum, Nat.mod_add_mod]
    · rw [hlen', hlen, hmono, hsum, Nat.add_assoc, ← Nat.mul_add, hframes]

end Sys2Proof.Machine

/-! ## What a step can do (10_state.md R46; 46_host_commands.md R210 to R233)

A step is a pass of the slice in progress, its end, or one operation of the host; and what a command writes. The rules
of the whole machine are read off these cases. -/

namespace Sys2Proof.Machine

/-! ### The cases of a step -/

/-- A code written to `CMD` is a command's, or it is not in the table (R210, R211). -/
theorem command_code_cases (c : Byte) : (∃ k : Command, encode k.toInstr = [c]) ∨ c.toNat = 0 ∨ 7 ≤ c.toNat := by
  by_cases hc : c.toNat < 7
  · obtain ⟨n, rfl⟩ : ∃ n : Fin 7, c = BitVec.ofNat 8 n := ⟨⟨c.toNat, hc⟩, by simp⟩
    match n with
    | 0 => exact .inr (.inl rfl)
    | 1 => exact .inl ⟨.load, rfl⟩
    | 2 => exact .inl ⟨.start, rfl⟩
    | 3 => exact .inl ⟨.tick, rfl⟩
    | 4 => exact .inl ⟨.render, rfl⟩
    | 5 => exact .inl ⟨.stop, rfl⟩
    | 6 => exact .inl ⟨.runtick, rfl⟩
  · exact .inr (.inr (by omega))

/-- What serving a host operation makes of the state, where it answers next. -/
inductive State.Serves (s : State) : HostOp → State → Prop where
  | command {n : Byte} {v : Word} {k : Command} {t : State} (hn : n.toNat = 0)
    (hk : encode k.toInstr = [commandCode v]) (h : exec k.toInstr s = .next t) : s.Serves (.regWrite n v) t
  | badCommand (n : Byte) (v : Word) : s.Serves (.regWrite n v) { s with result := .badCmd }
  | regWrite (n : Byte) (v : Word) : s.Serves (.regWrite n v) (regWrite n v s)
  | regRead (n : Byte) : s.Serves (.regRead n) { s with rdata := regRead s n }
  | memWrite {a : Word} (v : Byte) (h : a.toNat < s.par.memSize) :
    s.Serves (.memWrite a v) (hostMemWrite a.toNat v s)
  | memReadHost (a : Word) (r : Word) : s.Serves (.memReadHost a) { s with rdata := r }
  | reset : s.Serves .reset (platformReset s)

theorem serve_eq_next {op : HostOp} {s t : State} (h : serve op s = .next t) : s.Serves op t := by
  cases op with
  | regWrite n v =>
    by_cases hn : n.toNat = 0
    · replace h : command (commandCode v) s = .next t := (if_pos hn).symm.trans h
      obtain ⟨k, hk⟩ | hbad := command_code_cases (commandCode v)
      · exact .command hn hk ((command_of_encode hk s).symm.trans h)
      · cases (command_of_bad hbad s).symm.trans h
        exact .badCommand n v
    · replace h : Host.Outcome.next (regWrite n v s) = .next t := (if_neg hn).symm.trans h
      cases h
      exact .regWrite n v
  | regRead n =>
    cases h
    exact .regRead n
  | memWrite a v =>
    obtain hin | hout := lt_or_ge a.toNat s.par.memSize
    · cases (serve_memWrite hin).symm.trans h
      exact .memWrite v hin
    · cases (serve_memWrite_beyond hout).symm.trans h
  | memReadHost a =>
    obtain ⟨r, -, hr⟩ := onRead_eq_next.mp h
    cases hr
    exact .memReadHost a _
  | reset =>
    cases h
    exact .reset

/-- The four things a step that answers next can be. -/
inductive State.Steps (s : State) : State → Prop where
  | pass {t : State} (ha : s.seqr.active = true) (hr : s.cur.st = .running) (h : slicePass execute s = .next t) :
    s.Steps t
  | leave (ha : s.seqr.active = true) : s.Steps s.leaveSlice
  | idle (ha : s.seqr.active = false) (hh : s.host = []) : s.Steps s
  | serves {op : HostOp} {rest : List HostOp} {t : State} (ha : s.seqr.active = false) (hh : s.host = op :: rest)
    (h : { s with host := rest }.Serves op t) : s.Steps t

theorem step_eq_next {s t : State} (h : step s = .next t) : s.Steps t := by
  cases ha : s.seqr.active with
  | true =>
    by_cases hr : s.cur.st = .running
    · exact .pass ha hr ((step_of_running ha hr).symm.trans h)
    · cases (step_of_not_running ha hr).symm.trans h
      exact .leave ha
  | false =>
    cases hh : s.host with
    | nil =>
      cases (step_of_host_nil ha hh).symm.trans h
      exact .idle ha hh
    | cons op rest => exact .serves ha hh (serve_eq_next ((step_of_host ha hh).symm.trans h))

/-! ### What writes `M` and takes words from `out` -/

/-- `M` and the parameters are the same in `t`, and words are only appended. -/
structure State.LeavesMemory (s t : State) : Prop where
  mem : t.mem = s.mem
  par : t.par = s.par
  words : ∃ ws, t.out = s.out ++ ws

theorem State.LeavesMemory.of_eq {s t : State} (hm : t.mem = s.mem) (hp : t.par = s.par) (ho : t.out = s.out) :
    s.LeavesMemory t :=
  ⟨hm, hp, [], by rw [ho, List.append_nil]⟩

/-- No command writes `M` (20_memory.md section 2). -/
theorem exec_command_leavesMemory {k : Command} {s t : State} (h : exec k.toInstr s = .next t) :
    s.LeavesMemory t := by
  cases k with
  | load => obtain ⟨-, rfl⟩ | ⟨bad, rfl⟩ := exec_load_eq_next h <;> exact .of_eq rfl rfl rfl
  | start => obtain rfl | ⟨q, -, rfl⟩ := exec_start_eq_next h <;> exact .of_eq rfl rfl rfl
  | tick =>
    obtain ⟨u, hu, rfl⟩ := exec_tick_eq_next.mp h
    obtain ⟨hset, -, hout, -, -, -⟩ := tick_frame hu
    exact .of_eq hset.mem hset.par hout
  | render =>
    obtain ⟨u, hu, rfl⟩ := exec_render_eq_next.mp h
    have hr := renderFrames_rendered _ hu
    obtain ⟨ws, hwords, -⟩ := hr.words
    exact ⟨hr.setting.mem, hr.setting.par, ws, hwords⟩
  | stop =>
    cases (exec_stop s).symm.trans h
    exact .of_eq rfl rfl rfl
  | runtick =>
    obtain ⟨u, v, hu, hv, rfl⟩ := exec_runtick_eq_next.mp h
    obtain ⟨hset, -, hout, -, -, -⟩ := tick_frame hu
    have hr := renderFrames_rendered _ hv
    obtain ⟨ws, hwords, -⟩ := hr.words
    exact ⟨hr.setting.mem.trans hset.mem, hr.setting.par.trans hset.par, ws,
      hwords.trans (congrArg (· ++ ws) hout)⟩

/-- A step leaves `M` alone, or it is a memory write or a reset (R232, R270). -/
theorem step_memory_cases {s t : State} (h : step s = .next t) : s.LeavesMemory t ∨
    (s.seqr.active = false ∧ ∃ a v rest, s.host = .memWrite a v :: rest ∧
      t = hostMemWrite a.toNat v { s with host := rest }) ∨
    (s.seqr.active = false ∧ ∃ rest, s.host = .reset :: rest ∧ t = platformReset { s with host := rest }) := by
  cases step_eq_next h with
  | pass ha hr hpass =>
    obtain ⟨honly, -, -⟩ := slicePass_frame hpass
    exact .inl (.of_eq honly.setting.mem honly.setting.par honly.out)
  | leave ha => exact .inl (.of_eq rfl rfl rfl)
  | idle ha hh => exact .inl (.of_eq rfl rfl rfl)
  | serves ha hh hserves =>
    cases hserves with
    | command hn hk hexec =>
      have hleaves := exec_command_leavesMemory hexec
      exact .inl ⟨hleaves.mem, hleaves.par, hleaves.words⟩
    | badCommand n v => exact .inl (.of_eq rfl rfl rfl)
    | regWrite n v =>
      rw [regWrite_frame]
      exact .inl (.of_eq rfl rfl rfl)
    | regRead n => exact .inl (.of_eq rfl rfl rfl)
    | memWrite v hin => exact .inr (.inl ⟨ha, _, v, _, hh, rfl⟩)
    | memReadHost a r => exact .inl (.of_eq rfl rfl rfl)
    | reset => exact .inr (.inr ⟨ha, _, hh, rfl⟩)

/-- Settles O59: in each of the three cases of a step. -/
theorem onlyTheHostWritesMemory : Obligations.OnlyTheHostWritesMemory := by
  intro s t h
  have hreset (c : Fin 4) : Channels.reset.get c = Channel.reset := Channels.get_reset c
  obtain hleaves | ⟨-, a, v, rest, hh, rfl⟩ | ⟨-, rest, hh, rfl⟩ := step_memory_cases h
  · refine ⟨fun _ _ => ⟨hleaves.mem, fun a => by rw [hleaves.mem]⟩, fun a v rest ha hh => ?written,
      fun hne => absurd hleaves.mem hne, hleaves.par, fun _ => hleaves.words⟩
    case written =>
      cases serve_eq_next ((step_of_host ha hh).symm.trans h)
      exact ⟨rfl, hreset⟩
  · exact ⟨fun hno _ => absurd hh (hno a v rest), fun _ _ _ _ _ => ⟨rfl, hreset⟩, fun _ => ⟨rfl, hreset⟩, rfl,
      fun _ => ⟨[], (List.append_nil _).symm⟩⟩
  · exact ⟨fun _ hno => absurd hh (hno rest), fun _ _ _ _ _ => ⟨rfl, hreset⟩, fun _ => ⟨rfl, hreset⟩, rfl,
      fun hno => absurd hh (hno rest)⟩

/-! ### What takes a channel out of `IDLE` and `STOPPED` -/

/-- The tick of a channel at rest does nothing (R113). -/
theorem tick_chan_of_rest {s t : State} {c : Fin 4} (h : tick s = .next t)
    (hst : (s.chan c).st = .idle ∨ (s.chan c).st = .stopped) : t.chan c = s.chan c := by
  obtain ⟨u, hu, hchan⟩ := tick_chan h c
  rw [hchan]
  obtain ⟨-, heq⟩ | ⟨hst', -⟩ | ⟨hst', -⟩ | ⟨hst', -⟩ := chanTick_cases c s
  · cases heq.symm.trans hu
    rfl
  all_goals simp [hst'] at hst

/-- Frames do not wake a channel at rest. -/
theorem Channel.Framed.st_of_rest {x y : Channel} (h : x.Framed y) (hst : x.st = .idle ∨ x.st = .stopped) :
    y.st = x.st := by
  obtain ⟨heq, -⟩ | ⟨hsounding, -, -⟩ := h.ended
  · exact heq
  · obtain ⟨hlive, -, -⟩ := Channel.sounding_iff.mp hsounding
    exact absurd hlive (by simp [Channel.live_eq_false hst])

/-- Only `LOAD` and `START` wake a channel at rest (R111). -/
theorem exec_command_st_of_rest {k : Command} {s t : State} {c : Fin 4} (h : exec k.toInstr s = .next t)
    (hst : (s.chan c).st = .idle ∨ (s.chan c).st = .stopped) :
    k = .load ∨ k = .start ∨ (t.chan c).st = (s.chan c).st := by
  cases k with
  | load => exact .inl rfl
  | start => exact .inr (.inl rfl)
  | tick =>
    obtain ⟨u, hu, rfl⟩ := exec_tick_eq_next.mp h
    have hrest : u.chan c = s.chan c := tick_chan_of_rest hu hst
    exact .inr (.inr (congrArg Channel.st hrest))
  | render =>
    obtain ⟨u, hu, rfl⟩ := exec_render_eq_next.mp h
    exact .inr (.inr (((renderFrames_rendered _ hu).chans c).st_of_rest hst))
  | stop =>
    cases (exec_stop s).symm.trans h
    have hstop : (s.chan c).hostStop = s.chan c := if_neg (by simp [Channel.live_eq_false hst])
    exact .inr (.inr (congrArg Channel.st ((s.ch.get_map Channel.hostStop c).trans hstop)))
  | runtick =>
    obtain ⟨u, v, hu, hv, rfl⟩ := exec_runtick_eq_next.mp h
    have hrest : u.chan c = s.chan c := tick_chan_of_rest hu hst
    have hframed : (u.chan c).Framed (v.chan c) := (renderFrames_rendered _ hv).chans c
    rw [hrest] at hframed
    exact .inr (.inr (hframed.st_of_rest hst))

/-- Settles O60: every other case of a step leaves a channel at rest in its state. -/
theorem stoppedIsTerminalUntilAChanReset : Obligations.StoppedIsTerminalUntilAChanReset := by
  intro s t c h hst hchanged
  cases step_eq_next h with
  | pass ha hr hpass =>
    obtain ⟨honly, -, -⟩ := slicePass_frame hpass
    have hne : c ≠ s.seqr.chan := by
      rintro rfl
      rw [State.chan_seqr_chan, hr] at hst
      simp at hst
    exact absurd (congrArg Channel.st (honly.others c hne)) hchanged
  | leave ha => exact absurd rfl hchanged
  | idle ha hh => exact absurd rfl hchanged
  | @serves op rest t ha hh hserves =>
    refine ⟨ha, ?_⟩
    cases hserves with
    | @command n v k t hn hk hexec =>
      have hn0 : n = 0 := BitVec.eq_of_toNat_eq hn
      have hcode {b : Byte} (hb : [b] = [commandCode v]) : v.toNat % 256 = b.toNat := by
        rw [← commandCode_toNat, List.singleton_injective hb]
      subst hn0
      obtain rfl | rfl | heq := exec_command_st_of_rest hexec hst
      · exact .inl ⟨v, rest, hh, .inl (hcode hk)⟩
      · exact .inl ⟨v, rest, hh, .inr (hcode hk)⟩
      · exact absurd heq hchanged
    | badCommand n v => exact absurd rfl hchanged
    | regWrite n v =>
      rw [regWrite_frame] at hchanged
      exact absurd rfl hchanged
    | regRead n => exact absurd rfl hchanged
    | @memWrite a v hin => exact .inr (.inl ⟨a, v, rest, hh⟩)
    | memReadHost a r => exact absurd rfl hchanged
    | reset => exact .inr (.inr ⟨rest, hh⟩)

/-! ### Equal channels -/

/-- Frames keep two equal channels equal. -/
theorem renderFrames_chan_eq (n : Nat) {s t : State} {c d : Fin 4} (heq : s.chan c = s.chan d)
    (h : renderFrames n s = .next t) : t.chan c = t.chan d := by
  refine renderFrames_induct (P := fun _ s t => s.chan c = s.chan d → t.chan c = t.chan d) (fun s => id)
    (fun n s u t hu ih heq => ih ?_) n s t h heq
  obtain ⟨k, hc⟩ := frame_chan hu c
  obtain ⟨l, hd⟩ := frame_chan hu d
  rw [chanFrame_congr (c := d) rfl rfl rfl heq, hd, Except.ok.injEq, Prod.mk.injEq] at hc
  exact hc.2.symm

/-- A tick keeps two equal channels equal: what their parts of it depend on agrees. -/
theorem tick_chan_eq {s t : State} {c d : Fin 4} (heq : s.chan c = s.chan d) (h : tick s = .next t) :
    t.chan c = t.chan d :=
  State.AgreeAt.chan_tick_eq ⟨rfl, rfl, rfl, rfl, heq⟩ h h

/-- Settles O35: by the parts of the three commands. -/
theorem equalChannelsStayEqual : Obligations.EqualChannelsStayEqual := by
  rintro i s t c d (rfl | rfl | rfl) heq h
  · obtain ⟨u, hu, rfl⟩ := exec_tick_eq_next.mp h
    rw [State.chan_succeed, State.chan_succeed]
    exact tick_chan_eq heq hu
  · obtain ⟨u, hu, rfl⟩ := exec_render_eq_next.mp h
    rw [State.chan_succeed, State.chan_succeed]
    exact renderFrames_chan_eq _ heq hu
  · obtain ⟨u, v, hu, hv, rfl⟩ := exec_runtick_eq_next.mp h
    have hticked : u.chan c = u.chan d := tick_chan_eq heq hu
    have hrendered : v.chan c = v.chan d := renderFrames_chan_eq _ (by exact hticked) hv
    exact hrendered

end Sys2Proof.Machine

/-! ## The invariants (10_state.md section 6; 60_exceptions.md R246)

What the invariants say of one register set, kept by every instruction, tick and frame; from it, that every step keeps
them. -/

namespace Sys2Proof.Machine

/-! ### One register set -/

/-- What the invariants say of a register set, while data is loaded or not and under a directory. -/
structure Channel.OkIn (loaded : Bool) (dir : Directory) (x : Channel) : Prop where
  ok : x.Ok
  assigned : x.live = true → loaded = true ∧ x.seq.toNat < dir.seqCnt.toNat
  selected : x.insv = true → x.ins.toNat < dir.insCnt.toNat

section
variable {loaded : Bool} {dir : Directory} {x y : Channel}

theorem Channel.reset_okIn (loaded : Bool) (dir : Directory) : Channel.reset.OkIn loaded dir :=
  ⟨⟨by decide, by decide, nofun, by decide, nofun⟩, nofun, nofun⟩

/-- An active channel that stays active. -/
theorem Channel.OkIn.active (h : x.OkIn loaded dir) (hlive : x.live = true) (hseq : y.seq = x.seq)
    (hst : y.st = .running ∨ (y.st = .waiting ∧ y.wait ≠ 0)) (hstopc : y.stopc = x.stopc)
    (hpitch : 1 ≤ x.pitch.toNat → 1 ≤ y.pitch.toNat) (hvol : x.vol.toNat ≤ 64 → y.vol.toNat ≤ 64)
    (hins : (y.insv = x.insv ∧ y.ins = x.ins) ∨ y.ins.toNat < dir.insCnt.toNat) : y.OkIn loaded dir := by
  have hnot : x.stopc = .notStopped := by
    by_contra hne
    have hstopped := h.ok.stopc.mpr hne
    simp [Channel.live, hstopped] at hlive
  rw [hnot] at hstopc
  refine ⟨⟨hpitch h.ok.pitch, hvol h.ok.vol, ?wait, ?stopc, ?errorStop⟩, ?assigned, ?selected⟩
  case wait =>
    intro hw
    obtain hr | ⟨-, hne⟩ := hst
    · rw [hr] at hw
      cases hw
    · bv_omega
  case stopc =>
    obtain hr | ⟨hr, -⟩ := hst <;> simp [hr, hstopc]
  case errorStop =>
    rw [hstopc]
    nofun
  case assigned =>
    rw [hseq]
    exact fun _ => h.assigned hlive
  case selected =>
    obtain ⟨hinsv, heq⟩ | hlt := hins
    · rw [hinsv, heq]
      exact h.selected
    · exact fun _ => hlt

/-- A channel that is stopped. -/
theorem Channel.OkIn.stops (h : x.OkIn loaded dir) (hs : x.Stops y) : y.OkIn loaded dir := by
  refine ⟨⟨?_, ?_, ?_, ?_, hs.errorStop⟩, ?_, ?_⟩
  · rw [hs.pitch]
    exact h.ok.pitch
  · rw [hs.vol]
    exact h.ok.vol
  · rw [hs.st]
    nofun
  · exact iff_of_true hs.st hs.stopc
  · rw [Channel.live_eq_false (.inr hs.st)]
    nofun
  · rw [hs.insv, hs.ins]
    exact h.selected

/-- A channel after frames: as before, or stopped at its sample's end. -/
theorem Channel.OkIn.framed (h : x.OkIn loaded dir) (hf : x.Framed y) : y.OkIn loaded dir := by
  have hfields := hf.fields
  obtain ⟨hst, hstopc⟩ | ⟨-, hst, hstopc⟩ := hf.ended
  · rw [hst, hstopc] at hfields
    rw [hfields]
    exact ⟨⟨h.ok.pitch, h.ok.vol, h.ok.wait, h.ok.stopc, h.ok.errorStop⟩, h.assigned, h.selected⟩
  · rw [hst, hstopc] at hfields
    rw [hfields]
    exact h.stops ⟨rfl, nofun, nofun, rfl, rfl, rfl, rfl, rfl⟩

/-- `STOP` of a channel (R222). -/
theorem Channel.OkIn.hostStop (h : x.OkIn loaded dir) : x.hostStop.OkIn loaded dir := by
  unfold Channel.hostStop
  split
  case isTrue => exact h.stops (x.stops_halt (by decide) (by decide))
  case isFalse => exact h

/-- A channel that `START` has started, its sequence being one of those that exist (R214). -/
theorem Channel.started_okIn {q : Nat} (hq : q < 65536) (hexists : q = 0xFFFF ∨ q < dir.seqCnt.toNat)
    (hloaded : 0 < dir.seqCnt.toNat → loaded = true) : (Channel.started q).OkIn loaded dir := by
  unfold Channel.started Config.seqNone
  split
  case isTrue => exact Channel.reset_okIn loaded dir
  case isFalse hne =>
    have hreset := (Channel.reset_okIn loaded dir).ok
    refine ⟨⟨hreset.pitch, hreset.vol, nofun, iff_of_false nofun (not_not_intro rfl), nofun⟩, fun _ => ?_, nofun⟩
    obtain heq | hlt := hexists
    · exact absurd heq hne
    · exact ⟨hloaded (by omega), by rw [BitVec.toNat_ofNat]; omega⟩

end

/-! ### The invariants from their parts -/

/-- `M`, the parameters, the directory and `loaded` are the same. -/
structure State.SameData (s t : State) : Prop where
  par : t.par = s.par
  mem : t.mem = s.mem
  loaded : t.loaded = s.loaded
  dir : t.dir = s.dir

theorem State.SameSetting.data {s t : State} (h : s.SameSetting t) : s.SameData t :=
  ⟨h.par, h.mem, h.loaded, h.dir⟩

theorem State.Inv.chan {s : State} (h : s.Inv) (c : Fin 4) : (s.chan c).OkIn s.loaded s.dir :=
  ⟨h.chans c, h.assigned c, h.selected c⟩

/-- On the same data, the invariants of the channels and of the slice are enough. -/
theorem State.Inv.of_sameData {s t : State} (h : s.Inv) (hd : s.SameData t)
    (hchans : ∀ c, (t.chan c).OkIn s.loaded s.dir) (hquiet : t.seqr.active = false → t.seqr = Sequencer.idle) :
    t.Inv := by
  obtain ⟨hpar, hmem, hloaded, hdir⟩ := hd
  refine ⟨hmem ▸ h.memWf, ?_, ?_, fun c => (hchans c).ok, ?_, ?_, ?_, hquiet⟩
  · rw [hmem, hpar]
    exact h.memBound
  · rw [hloaded, hdir]
    exact h.unloaded
  · rw [hloaded, hdir]
    exact fun c => (hchans c).assigned
  · rw [hdir]
    exact fun c => (hchans c).selected
  · have hsamples := h.samples
    simp only [hloaded, hdir, insAddr, memRead_congr hpar hmem]
    exact hsamples

/-- Nothing loaded and every channel reset. -/
theorem State.inv_of_unloaded {t : State} (hwf : t.mem.wf = true) (hbound : ∀ e ∈ t.mem, e.1 < t.par.memSize)
    (hloaded : t.loaded = false) (hdir : t.dir = Directory.zero) (hchans : t.ch = Channels.reset)
    (hquiet : t.seqr.active = false → t.seqr = Sequencer.idle) : t.Inv := by
  have hreset (c : Fin 4) : t.chan c = Channel.reset := by
    rw [State.chan, hchans, Channels.get_reset]
  have hok (c : Fin 4) : (t.chan c).OkIn t.loaded t.dir := by
    rw [hreset]
    exact Channel.reset_okIn _ _
  exact ⟨hwf, hbound, fun _ => hdir, fun c => (hok c).ok, fun c => (hok c).assigned, fun c => (hok c).selected,
    fun h => absurd (hloaded.symm.trans h) (by decide), hquiet⟩

theorem State.Inv.setChan {s : State} (h : s.Inv) {c : Fin 4} {x : Channel} (hx : x.OkIn s.loaded s.dir) :
    (s.setChan c x).Inv := by
  refine h.of_sameData ⟨rfl, rfl, rfl, rfl⟩ (fun d => ?_) h.quiet
  rw [State.chan_setChan]
  split
  case isTrue => exact hx
  case isFalse => exact h.chan d

/-! ### Slices and ticks -/

/-- A pass in a slice in progress keeps the invariants. -/
theorem State.Inv.slicePass {s t : State} (h : s.Inv) (ha : s.seqr.active = true) (hr : s.cur.st = .running)
    (hpass : slicePass execute s = .next t) : t.Inv := by
  obtain ⟨honly, hchan, hactive⟩ := slicePass_frame hpass
  have hcur : s.cur.OkIn s.loaded s.dir := h.chan s.seqr.chan
  have hlive : s.cur.live = true := s.cur.live_iff.mpr (.inl hr)
  have hexecuting : t.cur.OkIn s.loaded s.dir := by
    obtain ⟨y, hy, rfl⟩ | ⟨n, -, -, hacts⟩ := slicePass_acts hpass
    · rw [State.cur_setCur]
      exact hcur.stops hy
    · cases hacts with
      | proceeds hy =>
        rw [State.cur_setCur]
        exact hcur.active hlive hy.seq (hr ▸ hy.st) hy.stopc hy.pitch hy.vol hy.selected
      | stops hy =>
        rw [State.cur_setCur]
        exact hcur.stops hy
      | transfers lc w =>
        rw [State.cur_jumped]
        exact hcur.active hlive rfl (.inl hr) rfl id id (.inl ⟨rfl, rfl⟩)
  refine h.of_sameData honly.setting.data (fun d => ?_) fun hno => ?_
  · by_cases hd : d = s.seqr.chan
    · rw [hd, ← hchan]
      exact hexecuting
    · rw [honly.others d hd]
      exact h.chan d
  · rw [hactive, ha] at hno
    cases hno

theorem State.Inv.enterSlice {s : State} (h : s.Inv) (c : Fin 4) : (s.enterSlice c).Inv :=
  h.of_sameData ⟨rfl, rfl, rfl, rfl⟩ h.chan nofun

theorem State.Inv.leaveSlice {s : State} (h : s.Inv) : s.leaveSlice.Inv :=
  h.of_sameData ⟨rfl, rfl, rfl, rfl⟩ h.chan fun _ => rfl

/-- A slice keeps the invariants. -/
theorem State.Inv.slice {s t : State} (h : s.Inv) {c : Fin 4} (ht : slice c s = .next t) : t.Inv := by
  obtain ⟨u, ⟨hu, -⟩, -, rfl⟩ := sliceLoop_invariant (P := fun u => u.Inv ∧ u.seqr.active = true)
    (fun u v ⟨hu, ha⟩ hr hpass => ⟨hu.slicePass ha hr hpass, (slicePass_frame hpass).2.2.trans ha⟩)
    slicePasses (s.enterSlice c) t ⟨h.enterSlice c, rfl⟩ ht
  exact hu.leaveSlice

/-- The state from which the tick of an active channel counts down or runs its slice (R114, R115). -/
theorem State.Inv.advancePhases {s : State} (h : s.Inv) {c : Fin 4} (hlive : (s.chan c).live = true) {st : ChState}
    {wait : Byte} (hst : st = .running ∨ (st = .waiting ∧ wait ≠ 0)) :
    (s.setChan c { (s.chan c).advancePhases with wait := wait, st := st }).Inv :=
  h.setChan ((h.chan c).active hlive rfl hst rfl id id (.inl ⟨rfl, rfl⟩))

/-- What the tick of a channel that keeps the invariants runs: nothing more, or the slice of a state that meets
them. -/
theorem State.Inv.chanTick_cases {s : State} (h : s.Inv) (c : Fin 4) :
    ∃ u : State, u.Inv ∧ s.SameData u ∧ (chanTick c s = .next u ∨ chanTick c s = Machine.slice c u) := by
  obtain ⟨-, heq⟩ | ⟨hst, heq⟩ | ⟨hst, hne, heq⟩ | ⟨hst, -, heq⟩ := Machine.chanTick_cases c s
  · exact ⟨s, h, ⟨rfl, rfl, rfl, rfl⟩, .inl heq⟩
  · have hu := h.advancePhases (wait := (s.chan c).wait) ((s.chan c).live_iff.mpr (.inl hst)) (.inl hst)
    exact ⟨_, hu, ⟨rfl, rfl, rfl, rfl⟩, .inr heq⟩
  · have hwait := (h.chans c).wait hst
    have hleft : (s.chan c).wait - 1 ≠ 0 := by bv_omega
    have hu := h.advancePhases ((s.chan c).live_iff.mpr (.inr hst)) (.inr ⟨hst, hleft⟩)
    exact ⟨_, hu, ⟨rfl, rfl, rfl, rfl⟩, .inl heq⟩
  · exact ⟨_, h.advancePhases ((s.chan c).live_iff.mpr (.inr hst)) (.inl rfl), ⟨rfl, rfl, rfl, rfl⟩, .inr heq⟩

theorem State.Inv.tick {s t : State} (h : s.Inv) (ht : tick s = .next t) : t.Inv := by
  refine tick_invariant (P := State.Inv) (fun c u v hu hv => ?_) h ht
  obtain ⟨w, hw, -, heq | heq⟩ := hu.chanTick_cases c
  · cases heq.symm.trans hv
    exact hw
  · exact hw.slice (heq.symm.trans hv)

/-! ### Frames and commands -/

theorem State.Inv.rendered {s t : State} {n : Nat} (h : s.Inv) (hr : s.Rendered n t) : t.Inv := by
  refine h.of_sameData hr.setting.data (fun c => (h.chan c).framed (hr.chans c)) ?_
  rw [hr.seqr]
  exact h.quiet

/-- A directory that names a sequence is that of loaded data (R22). -/
theorem State.Inv.loaded_of_seqCnt {s : State} (h : s.Inv) (hpos : 0 < s.dir.seqCnt.toNat) : s.loaded = true := by
  by_contra hno
  have hzero := h.unloaded (Bool.eq_false_of_not_eq_true hno)
  rw [hzero] at hpos
  exact absurd hpos (by decide)

theorem State.Inv.start {s t : State} (h : s.Inv) (ht : exec .start s = .next t) : t.Inv := by
  obtain rfl | ⟨q, hq, rfl⟩ := exec_start_eq_next ht
  · exact h.of_sameData ⟨rfl, rfl, rfl, rfl⟩ h.chan h.quiet
  · refine h.of_sameData ⟨rfl, rfl, rfl, rfl⟩ (fun c => ?_) h.quiet
    obtain ⟨hlt, hexists⟩ := hq c
    change ((startedChannels q).get c).OkIn _ _
    rw [startedChannels_get]
    exact Channel.started_okIn hlt hexists h.loaded_of_seqCnt

theorem State.Inv.load {s t : State} (h : s.Inv) (ht : exec .load s = .next t) : t.Inv := by
  obtain ⟨hnone, rfl⟩ | ⟨bad, rfl⟩ := exec_load_eq_next ht
  · have hreset (c : Fin 4) : (Channels.reset.get c).OkIn true (argDirectory s) := by
      rw [Channels.get_reset]
      exact Channel.reset_okIn _ _
    refine ⟨h.memWf, h.memBound, nofun, fun c => (hreset c).ok, fun c => (hreset c).assigned,
      fun c => (hreset c).selected, fun _ i hi r hr => ?_, h.quiet⟩
    obtain ⟨r', hr', hlt⟩ := findDangling_eq_none.mp hnone i hi
    rw [Nat.zero_add] at hr'
    cases hr'.symm.trans hr
    exact hlt
  · exact State.inv_of_unloaded h.memWf h.memBound rfl rfl rfl h.quiet

/-- Every command keeps the invariants. -/
theorem State.Inv.command {s t : State} (h : s.Inv) {k : Command} (ht : exec k.toInstr s = .next t) : t.Inv := by
  cases k with
  | load => exact h.load ht
  | start => exact h.start ht
  | tick =>
    obtain ⟨u, hu, rfl⟩ := exec_tick_eq_next.mp ht
    have hinv := h.tick hu
    exact hinv.of_sameData ⟨rfl, rfl, rfl, rfl⟩ hinv.chan hinv.quiet
  | render =>
    obtain ⟨u, hu, rfl⟩ := exec_render_eq_next.mp ht
    have hinv := h.rendered (renderFrames_rendered _ hu)
    exact hinv.of_sameData ⟨rfl, rfl, rfl, rfl⟩ hinv.chan hinv.quiet
  | stop =>
    cases (exec_stop s).symm.trans ht
    refine h.of_sameData ⟨rfl, rfl, rfl, rfl⟩ (fun c => ?_) h.quiet
    change ((s.ch.map Channel.hostStop).get c).OkIn _ _
    rw [Channels.get_map]
    exact (h.chan c).hostStop
  | runtick =>
    obtain ⟨u, v, hu, hv, rfl⟩ := exec_runtick_eq_next.mp ht
    have hticked := h.tick hu
    have hcounted := hticked.of_sameData
      (t := { u with facc := BitVec.ofNat 16 ((s.facc.toNat + s.par.fptQ16) % 65536) })
      ⟨rfl, rfl, rfl, rfl⟩ hticked.chan hticked.quiet
    have hinv := hcounted.rendered (renderFrames_rendered _ hv)
    exact hinv.of_sameData ⟨rfl, rfl, rfl, rfl⟩ hinv.chan hinv.quiet

/-! ### Every step -/

/-- A host memory write inside `M` keeps the invariants (R232). -/
theorem State.Inv.hostMemWrite {s : State} (h : s.Inv) {a : Nat} (ha : a < s.par.memSize) (v : Byte) :
    (hostMemWrite a v s).Inv := by
  refine State.inv_of_unloaded (Memory.wf_write h.memWf a v) (fun e he => ?_) rfl rfl rfl h.quiet
  obtain hold | rfl := Memory.mem_write he
  · exact h.memBound e hold
  · exact ha

/-- The platform's reset leaves a state that meets the invariants (R46, R270). -/
theorem platformReset_inv (s : State) : (platformReset s).Inv :=
  State.inv_of_unloaded (Memory.wf_fill _ _) (fun _ he => Memory.fill_bound he) rfl rfl rfl fun _ => rfl

/-- A served host operation keeps the invariants. -/
theorem State.Inv.serves {s t : State} (h : s.Inv) {op : HostOp} (hs : s.Serves op t) : t.Inv := by
  cases hs with
  | command hn hk hexec => exact h.command hexec
  | badCommand | regRead | memReadHost => exact h.of_sameData ⟨rfl, rfl, rfl, rfl⟩ h.chan h.quiet
  | regWrite n v =>
    rw [regWrite_frame]
    exact h.of_sameData ⟨rfl, rfl, rfl, rfl⟩ h.chan h.quiet
  | memWrite v hin => exact h.hostMemWrite hin v
  | reset => exact platformReset_inv s

/-- Settles O4: in each case of a step. -/
theorem everyStepKeepsInvariants : Obligations.EveryStepKeepsInvariants := by
  intro s t h hstep
  cases step_eq_next hstep with
  | pass ha hr hpass => exact h.slicePass ha hr hpass
  | leave ha => exact h.leaveSlice
  | idle ha hh => exact h
  | @serves op rest t ha hh hserves =>
    have hpopped := h.of_sameData (t := { s with host := rest }) ⟨rfl, rfl, rfl, rfl⟩ h.chan h.quiet
    exact hpopped.serves hserves

/-! ### Reset (R46) -/

/-- Settles O2: the fields one by one, and nothing is loaded. -/
theorem resetLeavesTheSpecsValuesAndTheInvariants : Obligations.ResetLeavesTheSpecsValuesAndTheInvariants := by
  refine ⟨?globals, fun c => ?channels, State.inv_of_unloaded rfl nofun rfl rfl rfl fun _ => rfl⟩
  case globals => exact ⟨rfl, rfl, rfl, rfl, rfl, rfl, rfl, rfl, rfl, rfl, rfl, by decide⟩
  case channels =>
    have hchan : State.reset.chan c = Channel.reset := Channels.get_reset c
    rw [hchan]
    decide

/-- Settles O1: the global registers read 0, the channel registers what `channelWord_reset` says. -/
theorem resetRegistersReadZeroButVoice : Obligations.ResetRegistersReadZeroButVoice := by
  intro n
  have hglobal : ∀ k : Fin 0x20, globalWord State.reset k.val = 0 := by decide
  obtain hlo | hhi := lt_or_ge n.toNat 0x20
  · rw [regRead_of_global _ hlo, if_neg (by omega)]
    exact hglobal ⟨n.toNat, hlo⟩
  · obtain hmid | hres := lt_or_ge n.toNat 0x60
    · have hnum : n.toNat = 0x20 + 0x10 * ((n.toNat - 0x20) / 16) + n.toNat % 16 := by omega
      have hread := regRead_of_channel State.reset (c := ⟨(n.toNat - 0x20) / 16, by omega⟩)
        (k := ⟨n.toNat % 16, by omega⟩) hnum
      rw [hread, State.chan, show State.reset.ch = Channels.reset from rfl, Channels.get_reset, channelWord_reset]
      exact if_congr (by simp only; omega) rfl rfl
    · rw [regRead_of_reserved _ hres, if_neg (by omega)]

end Sys2Proof.Machine

/-! ## Completion on data inside the input contract (70_reset_and_hazards.md R275, R282)

Where the invariants hold and the data lies inside `M`, no read of the four playing commands leaves `M`, so each of
them answers a next state; and none of them moves the data. -/

namespace Sys2Proof.Machine

/-! ### Records inside `M` -/

theorem State.DataInside.of_sameData {s t : State} (h : s.DataInside) (hd : s.SameData t) : t.DataInside := by
  obtain ⟨hpar, hmem, -, hdir⟩ := hd
  have hsamples := h.sampleData
  have hcode := h.seqCode
  refine ⟨?_, ?_, ?_, ?_, ?_, ?_⟩
  · rw [hdir, hpar]
    exact h.smpTable
  · rw [hdir, hpar]
    exact h.insTable
  · rw [hdir, hpar]
    exact h.seqTable
  · rw [hdir, hpar]
    exact h.sndTable
  · simp only [hdir, hpar, readSample_congr hpar hmem hdir]
    exact hsamples
  · simp only [hdir, hpar, readSeq_congr hpar hmem hdir]
    exact hcode

section
variable {s : State}

theorem State.DataInside.exists_readInstrument (h : s.DataInside) {i : Nat} (hi : i < s.dir.insCnt.toNat) :
    ∃ I, readInstrument s i = .ok I := by
  have htable := h.insTable
  exact ⟨_, readInstrument_eq_ok.mpr ⟨by unfold insAddr Config.insRec; omega, rfl⟩⟩

theorem State.DataInside.exists_readSample (h : s.DataInside) {k : Nat} (hk : k < s.dir.smpCnt.toNat) :
    ∃ S, readSample s k = .ok S := by
  have htable := h.smpTable
  exact ⟨_, readSample_eq_ok.mpr ⟨by unfold smpAddr Config.smpRec; omega, rfl⟩⟩

theorem State.DataInside.exists_readSeq (h : s.DataInside) {q : Nat} (hq : q < s.dir.seqCnt.toNat) :
    ∃ S, readSeq s q = .ok S := by
  have htable := h.seqTable
  exact ⟨⟨_, _⟩, readSeq_eq_ok.mpr ⟨by unfold seqAddr Config.seqRec; omega, rfl, rfl⟩⟩

theorem State.DataInside.exists_readSound (h : s.DataInside) {i : Nat} (hi : i < s.dir.sndCnt.toNat) :
    ∃ q : Fin 4 → Nat, ∀ c : Fin 4, readSound s i c.val = .ok (q c) := by
  have htable := h.sndTable
  exact ⟨_, fun c => memRead_eq_ok.mpr ⟨by unfold sndAddr Config.sndRec; omega, rfl⟩⟩

/-! ### Slices -/

/-- Inside the declared length of a sequence that exists, the fetch reads inside `M`; past it, it reads nothing
(R117). -/
theorem State.DataInside.exists_fetch (h : s.DataInside) {q : Nat} (hq : q < s.dir.seqCnt.toNat) (o : Nat) :
    ∃ d, fetch s q o = .ok d := by
  obtain ⟨S, hS⟩ := h.exists_readSeq hq
  have hcode := h.seqCode q hq S hS
  obtain hpast | hlt := le_or_gt S.len o
  · exact ⟨_, fetch_of_pastEnd (op := 0) hS (.inl hpast)⟩
  · have hop : memReadByte s (S.code + o) = .ok (s.mem.read (S.code + o)) :=
      memReadByte_eq_ok.mpr ⟨by omega, rfl⟩
    obtain hcut | hin := lt_or_ge S.len (o + ilen (s.mem.read (S.code + o)))
    · exact ⟨_, fetch_of_pastEnd hS (.inr ⟨hlt, hop, hcut⟩)⟩
    · exact ⟨_, fetch_of_reads hS hop hin (memReadBytes_eq_ok.mpr ⟨.inr (by omega), rfl⟩)⟩

/-- A pass of an active channel answers next. -/
theorem State.DataInside.exists_slicePass (h : s.DataInside) (hinv : s.Inv) (hr : s.cur.st = .running) :
    ∃ t, slicePass execute s = .next t := by
  obtain ⟨-, hseq⟩ := hinv.assigned s.seqr.chan (s.cur.live_iff.mpr (.inl hr))
  obtain ⟨d, hd⟩ := h.exists_fetch hseq s.cur.pc.toNat
  cases d with
  | error e => exact ⟨_, slicePass_of_fetch_error hd⟩
  | ok i =>
    rw [slicePass_of_fetch_ok (b := i.1) (n := i.2) hd]
    obtain hnext | ⟨a, f, -, hlt, herr, -⟩ := execute_cases i.1 s
    · exact hnext
    · obtain ⟨I, hI⟩ := h.exists_readInstrument hlt
      cases hI.symm.trans herr

/-- A loop that does not run out of passes answers next. -/
theorem State.DataInside.exists_sliceLoop (n : Nat) (h : s.DataInside) (hinv : s.Inv) (ha : s.seqr.active = true)
    (hn : sliceLoop n s ≠ .fault .sliceBound) : ∃ t, sliceLoop n s = .next t := by
  induction n generalizing s with
  | zero =>
    by_cases hr : s.cur.st = .running
    · exact absurd (if_pos hr) hn
    · exact ⟨_, sliceLoop_of_not_running 0 hr⟩
  | succ n ih =>
    by_cases hr : s.cur.st = .running
    · obtain ⟨u, hu⟩ := h.exists_slicePass hinv hr
      obtain ⟨honly, -, hactive⟩ := slicePass_frame hu
      rw [sliceLoop_of_running n hr, hu, andThen_next] at hn ⊢
      exact ih (h.of_sameData honly.setting.data) (hinv.slicePass ha hr hu) (hactive.trans ha) hn
    · exact ⟨_, sliceLoop_of_not_running _ hr⟩

theorem State.DataInside.exists_slice (h : s.DataInside) (hinv : s.Inv) (c : Fin 4) : ∃ t, slice c s = .next t :=
  State.DataInside.exists_sliceLoop (s := s.enterSlice c) _ (h.of_sameData ⟨rfl, rfl, rfl, rfl⟩) (hinv.enterSlice c)
    rfl (slice_ne_sliceBound c s)

/-- The invariants and the contract together, as what the parts of the commands keep. -/
def State.Sound (s : State) : Prop := s.Inv ∧ s.DataInside

/-- The tick of a channel answers next, with both (R113 to R115). -/
theorem State.Sound.exists_chanTick (h : s.Sound) (c : Fin 4) : ∃ t, chanTick c s = .next t ∧ t.Sound := by
  obtain ⟨hinv, hdata⟩ := h
  obtain ⟨u, hu, hsame, heq | heq⟩ := hinv.chanTick_cases c
  · exact ⟨u, heq, hu, hdata.of_sameData hsame⟩
  · have hudata := hdata.of_sameData hsame
    obtain ⟨t, ht⟩ := hudata.exists_slice hu c
    obtain ⟨honly, -, -, -⟩ := slice_eq_next ht
    exact ⟨t, heq.trans ht, hu.slice ht, hudata.of_sameData honly.setting.data⟩

theorem State.Sound.exists_tick (h : s.Sound) : ∃ t, tick s = .next t ∧ t.Sound := by
  obtain ⟨s1, h1, hs1⟩ := h.exists_chanTick 0
  obtain ⟨s2, h2, hs2⟩ := hs1.exists_chanTick 1
  obtain ⟨s3, h3, hs3⟩ := hs2.exists_chanTick 2
  obtain ⟨t, h4, ht⟩ := hs3.exists_chanTick 3
  exact ⟨t, tick_eq_next.mpr ⟨s1, s2, s3, h1, h2, h3, h4⟩, ht⟩

/-! ### Frames -/

/-- A sounding channel's amplitude lies inside its sample, and the sample inside `M` (R188, R189). -/
theorem State.DataInside.exists_soundFrame (h : s.DataInside) {k : Nat} {S : Sample} (hk : k < s.dir.smpCnt.toNat)
    (hS : readSample s k = .ok S) (x : Channel) (I : Instrument) : ∃ r, soundFrame s x I S = .ok r := by
  obtain ⟨-, hin, hloop⟩ := h.sampleData k hk S hS
  have hamp (y : Channel) {cur : Nat} (hcur : cur < S.length * 65536) : ∃ r, soundAt s y S cur = .ok r :=
    ⟨_, (soundAt_inside y (by omega)).1⟩
  by_cases hzero : S.loopLength = 0
  · rw [soundFrame_oneShot hzero]
    split
    case isTrue => exact ⟨_, rfl⟩
    case isFalse hlt => exact hamp x (by omega)
  · have hend := hloop hzero
    have hwrap := loopWrap_lt hzero (advancedCursor s.par x I S)
    have hlt := hwrap.trans_le (Nat.mul_le_mul_right 65536 hend)
    rw [soundFrame_looping hzero]
    exact hamp _ hlt

/-- The frame of a channel answers: its instrument exists, and the sample that names (R181, R192). -/
theorem State.Sound.exists_chanFrame (h : s.Sound) (c : Fin 4) : ∃ r, chanFrame s c = .ok r := by
  obtain ⟨hinv, hdata⟩ := h
  obtain ⟨-, hsilent⟩ | ⟨hlive, hins, -⟩ := chanFrame_cases s c
  · exact ⟨_, hsilent⟩
  · have hlt := hinv.selected c hins
    obtain ⟨I, hI⟩ := hdata.exists_readInstrument hlt
    have hread : memRead s (insAddr s (s.chan c).ins.toNat) 2 = .ok I.sample := by
      obtain ⟨hin, rfl⟩ := readInstrument_eq_ok.mp hI
      exact memRead_eq_ok.mpr ⟨by omega, rfl⟩
    have hsample := hinv.samples (hinv.assigned c hlive).1 _ hlt _ hread
    obtain ⟨S, hS⟩ := hdata.exists_readSample hsample
    rw [chanFrame_of_read hlive hins hI hS]
    split
    case isTrue => exact ⟨_, rfl⟩
    case isFalse => exact hdata.exists_soundFrame hsample hS _ I

theorem State.Sound.exists_frame (h : s.Sound) : ∃ t, frame s = .next t ∧ t.Sound := by
  choose r hr using h.exists_chanFrame
  have hframe := frame_of_chanFrames (k := fun c => (r c).1) (y := fun c => (r c).2) hr
  have hrendered := frame_rendered hframe
  exact ⟨_, hframe, h.1.rendered hrendered, h.2.of_sameData hrendered.setting.data⟩

theorem State.Sound.exists_renderFrames (h : s.Sound) (n : Nat) : ∃ t, renderFrames n s = .next t ∧ t.Sound := by
  induction n generalizing s with
  | zero => exact ⟨s, renderFrames_zero s, h⟩
  | succ n ih =>
    obtain ⟨u, hu, hsu⟩ := h.exists_frame
    obtain ⟨t, ht, hst⟩ := ih hsu
    exact ⟨t, andThen_eq_next.mpr ⟨u, hu, ht⟩, hst⟩

/-! ### The commands -/

/-- Both are about the data, the channels and the slice. -/
theorem State.Sound.of_sameChannels {t : State} (h : s.Sound) (hd : s.SameData t) (hch : t.ch = s.ch)
    (hseqr : t.seqr = s.seqr) : t.Sound := by
  have hchan (c : Fin 4) : t.chan c = s.chan c := by rw [State.chan, hch, State.chan]
  refine ⟨h.1.of_sameData hd (fun c => ?_) (hseqr ▸ h.1.quiet), h.2.of_sameData hd⟩
  rw [hchan]
  exact h.1.chan c

/-- `START` reads the sound's record inside `M`, and writes no data (R214). -/
theorem State.Sound.exists_start (h : s.Sound) : ∃ t, exec .start s = .next t ∧ t.Sound := by
  have hnext : ∃ t, exec .start s = .next t := by
    obtain hno | hsound := le_or_gt s.dir.sndCnt.toNat (s.arg[0].toNat % 65536)
    · exact ⟨_, exec_start_of_no_sound hno⟩
    · obtain ⟨q, hq⟩ := h.2.exists_readSound hsound
      rw [exec_start_of_reads hsound hq]
      split
      case isTrue => exact ⟨_, rfl⟩
      case isFalse => exact ⟨_, rfl⟩
  obtain ⟨t, ht⟩ := hnext
  have hsame : s.SameData t := by
    obtain rfl | ⟨q, -, rfl⟩ := exec_start_eq_next ht
    · exact ⟨rfl, rfl, rfl, rfl⟩
    · exact ⟨rfl, rfl, rfl, rfl⟩
  exact ⟨t, ht, h.1.start ht, h.2.of_sameData hsame⟩

theorem State.Sound.exists_exec_tick (h : s.Sound) : ∃ t, exec .tick s = .next t ∧ t.Sound := by
  obtain ⟨u, hu, hsu⟩ := h.exists_tick
  exact ⟨_, exec_tick_eq_next.mpr ⟨u, hu, rfl⟩, hsu.of_sameChannels ⟨rfl, rfl, rfl, rfl⟩ rfl rfl⟩

theorem State.Sound.exists_exec_render (h : s.Sound) : ∃ t, exec .render s = .next t ∧ t.Sound := by
  obtain ⟨u, hu, hsu⟩ := h.exists_renderFrames s.arg[0].toNat
  exact ⟨_, exec_render_eq_next.mpr ⟨u, hu, rfl⟩, hsu.of_sameChannels ⟨rfl, rfl, rfl, rfl⟩ rfl rfl⟩

theorem State.Sound.exists_exec_runtick (h : s.Sound) : ∃ t, exec .runtick s = .next t ∧ t.Sound := by
  obtain ⟨u, hu, hsu⟩ := h.exists_tick
  have hcounted : { u with facc := BitVec.ofNat 16 ((s.facc.toNat + s.par.fptQ16) % 65536) }.Sound :=
    hsu.of_sameChannels ⟨rfl, rfl, rfl, rfl⟩ rfl rfl
  obtain ⟨v, hv, hsv⟩ := hcounted.exists_renderFrames ((s.facc.toNat + s.par.fptQ16) / 65536)
  exact ⟨_, exec_runtick_eq_next.mpr ⟨u, v, hu, hv, rfl⟩, hsv.of_sameChannels ⟨rfl, rfl, rfl, rfl⟩ rfl rfl⟩

end

/-- Settles O45: command by command. -/
theorem commandsCompleteOnContractData : Obligations.CommandsCompleteOnContractData := by
  intro s hinv hdata
  have h : s.Sound := ⟨hinv, hdata⟩
  exact ⟨h.exists_start, h.exists_exec_tick, h.exists_exec_render, h.exists_exec_runtick⟩

end Sys2Proof.Machine
